-- ==== Sys2Proof/Word.lean ====
section
/-! DEFINITION. The word types of CRC8FR: bytes and 16-bit command words (spec/00_scope.md R5, R6). -/

namespace Sys2Proof

/-- A byte, bit 0 the least significant (R6). -/
abbrev Byte := BitVec 8

/-- A command word on the `cmd` port (R5, R70). -/
abbrev Word16 := BitVec 16

end Sys2Proof
end

