-- ==== Sys2Proof/Config.lean ====
section
/-! DEFINITION. What an implementation fixes (spec/00_scope.md R5, spec/10_state.md R35) and the values the spec
leaves OPEN, as constants without a body. Which configuration the machine is instantiated at stands in
Sys2Proof/Machine/Block.lean. -/

namespace Sys2Proof

/-- The five parameters of a CRC profile (R5). -/
structure Profile where
  /-- The generator polynomial without its x^8 term. -/
  poly : Byte
  /-- What a CRC register starts at; loaded as it stands (R103). -/
  init : Byte
  /-- Whether each data byte is bit-reversed first. -/
  refin : Bool
  /-- Whether the final register is bit-reversed. -/
  refout : Bool
  /-- XORed into the checksum last. -/
  xorout : Byte
  deriving DecidableEq, Repr

/-- The parameters of R5's table, a parameter of the step and not state (R35), with R5's bounds on the capacity. The
table gives the four widths one value each, by which `Byte` and `Word16` are typed, so a configuration carries the proof
of that value. -/
structure Config where
  /-- `W`, the width of a CRC register and of a checksum. -/
  crcWidth : Nat
  profile : Profile
  /-- `BUF_BYTES`, the capacity of `f_buf`. -/
  bufBytes : Nat
  /-- The width of a word on `cmd`. -/
  commandWidth : Nat
  /-- The width of a response on `rsp`. -/
  responseWidth : Nat
  /-- The width of FFRAME's insertion-index operand. -/
  indexWidth : Nat
  bufMin : 6 ≤ bufBytes
  bufMax : bufBytes ≤ 255
  crcWidthIs : crcWidth = 8 := by decide
  commandWidthIs : commandWidth = 16 := by decide
  responseWidthIs : responseWidth = 8 := by decide
  indexWidthIs : indexWidth = 8 := by decide

/-- OPEN (R5, decision D6): how far `BUF_BYTES` lies above its lower bound 6. Log entry 1. -/
opaque Config.freeBufExtra : Fin 250

/-- OPEN and used by no rule (R57, decision D1): where the block sits in a system's address map (`BASE`). -/
opaque Config.freeBase : Nat

/-- OPEN and used by no rule (R236, decision D16): cycles per command (`CMD_LATENCY`). -/
opaque Config.freeCmdLatency : Nat

/-- OPEN and used by no rule (R236, decision D16): length of a reset (`RESET_CYCLES`). -/
opaque Config.freeResetCycles : Nat

/-- OPEN (R188, decision D29): the literal payload byte of the init brightness packet (`INIT_PAYLOADS`). -/
opaque Config.freeInitBrightness : Byte

/-- OPEN (R188, decision D29): the literal payload bytes of the init monitor packet (`INIT_PAYLOADS`). -/
opaque Config.freeInitMonitor : Byte × Byte × Byte

/-- OPEN (R188, decision D29): the literal payload bytes of the init PID packet (`INIT_PAYLOADS`). -/
opaque Config.freeInitPid : Byte × Byte × Byte × Byte

/-- OPEN and used by no rule (R188, decision D29): how many writes the init phase has beyond its first
(`INIT_WRITES`). Log entry 13. -/
opaque Config.freeInitWrites : Nat

/-- OPEN and used by no rule (R188, decision D29): the pad-delay between the init writes (`PAD_DELAY`). -/
opaque Config.freePadDelay : Nat

/-- Not in the spec (R188 gives the init packets no order): which of the four stands at each place after the sentinel.
Log entry 13. -/
opaque Config.freeInitOrder : Equiv.Perm (Fin 4)

/-- Not in the spec (R188): how many rows each init write but the last carries beyond its first. Log entry 13. -/
opaque Config.freeInitSizes : Nat → Nat

end Sys2Proof
end

