-- ==== Sys2Proof/Machine/Block.lean ====
section
/-! DEFINITION. The profiles the spec names and the configuration this machine is instantiated at. -/

namespace Sys2Proof.Machine

/-- `PROFILE_DOC` (spec/40_crc_generator.md R104): the source's five values. -/
def profileDoc : Profile :=
  { poly := 0x1D, init := 0xFF, refin := true, refout := true, xorout := 0x00 }

/-- `PROFILE_0x2F` (spec/92_eei_decisions.md D7): the alternative of conflict C1. -/
def profile0x2F : Profile :=
  { poly := 0x2F, init := 0xFF, refin := false, refout := false, xorout := 0xFF }

/-- The block's configuration, R5's table: `PROFILE_DOC`, the four widths, and a `BUF_BYTES` of which only R5's bounds are
known. Log entry 1. -/
def block : Config :=
  { crcWidth := 8
    profile := profileDoc
    bufBytes := Config.freeBufExtra.val + 6
    commandWidth := 16
    responseWidth := 8
    indexWidth := 8
    bufMin := Nat.le_add_left 6 _
    bufMax := by have h := Config.freeBufExtra.isLt; omega }

end Sys2Proof.Machine
end

