-- ==== Sys2Proof/Machine/Crc.lean ====
section
/-! DEFINITION. The CRC function (spec/40_crc_generator.md section 1) and the framing function (spec/41_framer.md R130),
for any profile. -/

namespace Sys2Proof.Machine

/-- `refl8` (R100): bit k of the result is bit 7-k of `x`. -/
def refl8 (x : Byte) : Byte :=
  BitVec.ofBoolListLE [x.getLsbD 7, x.getLsbD 6, x.getLsbD 5, x.getLsbD 4, x.getLsbD 3, x.getLsbD 2, x.getLsbD 1,
    x.getLsbD 0]

/-- One turn of R101's loop: shift left, and subtract the polynomial if bit 7 was set. -/
def crcShift (p : Profile) (t : Byte) : Byte :=
  if t.getLsbD 7 then (t <<< 1) ^^^ p.poly else t <<< 1

/-- `Step(r, d)` (R101). -/
def crcStep (p : Profile) (r d : Byte) : Byte :=
  Nat.iterate (crcShift p) 8 (r ^^^ (if p.refin then refl8 d else d))

/-- `Final(r)` (R102). -/
def crcFinal (p : Profile) (r : Byte) : Byte :=
  (if p.refout then refl8 r else r) ^^^ p.xorout

/-- `CRC(b)` (R103). -/
def crc (p : Profile) (b : List Byte) : Byte :=
  crcFinal p (b.foldl (crcStep p) p.init)

/-- One turn of the reflected loop of R105. -/
def crcShiftR (p : Profile) (t : Byte) : Byte :=
  if t.getLsbD 0 then (t >>> 1) ^^^ refl8 p.poly else t >>> 1

/-- `StepR(s, d)` (R105), the reflected form of `Step`. -/
def crcStepR (p : Profile) (s d : Byte) : Byte :=
  Nat.iterate (crcShiftR p) 8 (s ^^^ d)

/-- `CRC` by the reflected form (R105). -/
def crcR (p : Profile) (b : List Byte) : Byte :=
  b.foldl (crcStepR p) (refl8 p.init) ^^^ p.xorout

/-- Rows 0x to 3x of `TR` (R105). -/
def tableRows0 : List Byte :=
  [0x00, 0x64, 0xC8, 0xAC, 0xE1, 0x85, 0x29, 0x4D, 0xB3, 0xD7, 0x7B, 0x1F, 0x52, 0x36, 0x9A, 0xFE,
   0x17, 0x73, 0xDF, 0xBB, 0xF6, 0x92, 0x3E, 0x5A, 0xA4, 0xC0, 0x6C, 0x08, 0x45, 0x21, 0x8D, 0xE9,
   0x2E, 0x4A, 0xE6, 0x82, 0xCF, 0xAB, 0x07, 0x63, 0x9D, 0xF9, 0x55, 0x31, 0x7C, 0x18, 0xB4, 0xD0,
   0x39, 0x5D, 0xF1, 0x95, 0xD8, 0xBC, 0x10, 0x74, 0x8A, 0xEE, 0x42, 0x26, 0x6B, 0x0F, 0xA3, 0xC7]

/-- Rows 4x to 7x of `TR` (R105). -/
def tableRows4 : List Byte :=
  [0x5C, 0x38, 0x94, 0xF0, 0xBD, 0xD9, 0x75, 0x11, 0xEF, 0x8B, 0x27, 0x43, 0x0E, 0x6A, 0xC6, 0xA2,
   0x4B, 0x2F, 0x83, 0xE7, 0xAA, 0xCE, 0x62, 0x06, 0xF8, 0x9C, 0x30, 0x54, 0x19, 0x7D, 0xD1, 0xB5,
   0x72, 0x16, 0xBA, 0xDE, 0x93, 0xF7, 0x5B, 0x3F, 0xC1, 0xA5, 0x09, 0x6D, 0x20, 0x44, 0xE8, 0x8C,
   0x65, 0x01, 0xAD, 0xC9, 0x84, 0xE0, 0x4C, 0x28, 0xD6, 0xB2, 0x1E, 0x7A, 0x37, 0x53, 0xFF, 0x9B]

/-- Rows 8x to Bx of `TR` (R105). -/
def tableRows8 : List Byte :=
  [0xB8, 0xDC, 0x70, 0x14, 0x59, 0x3D, 0x91, 0xF5, 0x0B, 0x6F, 0xC3, 0xA7, 0xEA, 0x8E, 0x22, 0x46,
   0xAF, 0xCB, 0x67, 0x03, 0x4E, 0x2A, 0x86, 0xE2, 0x1C, 0x78, 0xD4, 0xB0, 0xFD, 0x99, 0x35, 0x51,
   0x96, 0xF2, 0x5E, 0x3A, 0x77, 0x13, 0xBF, 0xDB, 0x25, 0x41, 0xED, 0x89, 0xC4, 0xA0, 0x0C, 0x68,
   0x81, 0xE5, 0x49, 0x2D, 0x60, 0x04, 0xA8, 0xCC, 0x32, 0x56, 0xFA, 0x9E, 0xD3, 0xB7, 0x1B, 0x7F]

/-- Rows Cx to Fx of `TR` (R105). -/
def tableRowsC : List Byte :=
  [0xE4, 0x80, 0x2C, 0x48, 0x05, 0x61, 0xCD, 0xA9, 0x57, 0x33, 0x9F, 0xFB, 0xB6, 0xD2, 0x7E, 0x1A,
   0xF3, 0x97, 0x3B, 0x5F, 0x12, 0x76, 0xDA, 0xBE, 0x40, 0x24, 0x88, 0xEC, 0xA1, 0xC5, 0x69, 0x0D,
   0xCA, 0xAE, 0x02, 0x66, 0x2B, 0x4F, 0xE3, 0x87, 0x79, 0x1D, 0xB1, 0xD5, 0x98, 0xFC, 0x50, 0x34,
   0xDD, 0xB9, 0x15, 0x71, 0x3C, 0x58, 0xF4, 0x90, 0x6E, 0x0A, 0xA6, 0xC2, 0x8F, 0xEB, 0x47, 0x23]

/-- The 256-entry table `TR` of R105. -/
def crcTable : List Byte :=
  tableRows0 ++ tableRows4 ++ tableRows8 ++ tableRowsC

/-- `Frame(b, i)` (R130): undefined, so `none`, for i > len(b). -/
def frame (p : Profile) (b : List Byte) (i : Nat) : Option (List Byte) :=
  if i ≤ b.length then some (b.take i ++ [crc p b] ++ b.drop i) else none

end Sys2Proof.Machine
end

