-- ==== Sys2Proof/Syntax.lean ====
section
/-! DEFINITION. What the host can present: one constructor of Instr per row of spec/opcode_table.json, and the host's
interactions (spec/10_state.md R21, R22). -/

namespace Sys2Proof

/-- The eleven commands (spec/30_encoding.md R74) and the five packet rows (R81). A packet row carries every byte of
its layout after byte 0, the fixed ones too, in the order of the layout; `c` is byte 1. -/
inductive Instr where
  | nop
  | ginit
  | gupd (d : Byte)
  | gread
  | fclr
  | fpush (d : Byte)
  | fframe (i : Byte)
  | fframee
  | fread
  | flen
  | stat
  /-- `1F c F0 00` (R181): `p1`, `p2` stand where the layout has F0 and 00. -/
  | pktStatus (c p1 p2 : Byte)
  /-- `AA c r0 .. rN-1` (R182), for any N; the table's row is the one with N = 1. -/
  | pktBrightness (c : Byte) (r : List Byte)
  /-- `AB c r0 r1 r2` (R183). -/
  | pktMonitor (c r0 r1 r2 : Byte)
  /-- `AC c r0 r1 DE r2 r3` (R184): `k` stands where the layout has DE. -/
  | pktPid (c r0 r1 k r2 r3 : Byte)
  /-- `EE 00`, raw (R188). -/
  | sentinel
  deriving DecidableEq, Repr

/-- One interaction of the host with the block: a word on `cmd`, an assertion of `rst` (R21, R22), or the bytes of a
packet row, which the host builds on the block (R191). -/
inductive HostEvent where
  | word (w : Word16)
  | rst
  | packet (bytes : List Byte)
  deriving DecidableEq, Repr

end Sys2Proof
end

