-- ==== Sys2Proof/Machine/State.lean ====
section
/-! DEFINITION. The machine's state as plain data (spec/10_state.md R23 to R32, R37), the reasons a step can stop, and
the state after reset (spec/70_reset_and_hazards.md R230). -/

namespace Sys2Proof.Machine

/-- The contents of `f_buf` (R24): (index, byte) pairs, indices strictly rising, an index the spec gives no content
unlisted. Log entry 2. -/
abbrev Memory := List Host.Cell

/-- `f_phase` (R27): 0 = ACCUM, 1 = EMIT. -/
inductive Phase where
  | accum
  | emit
  deriving DecidableEq, Repr

/-- The cause codes of spec/60_exceptions.md R200. Codes 6 and 7 are never recorded, so the type has no name for them
(spec/93_implementation_defined.md U10). -/
inductive Cause where
  | none
  | illegal
  | overflow
  | badIndex
  | phase
  | underflow
  deriving DecidableEq, Repr

/-- Why the machine stops. The spec's own faults are no stops: they are recorded in `fault` and `cause` and the block
goes on (R201). -/
inductive Fault where
  /-- Raised by FREAD, and by a packet row through it: an `f_buf` byte to which the spec gives no value would be read, or
  `OutByte` is asked outside its domain (R132). SAFE: no state reached from reset does it (R36), and
  spec/93_implementation_defined.md U1 says of a model that could: it "should fault". -/
  | bufferUnread
  /-- Raised by FPUSH, and by a packet row through it: `f_len` is above `BUF_BYTES`, so the byte would land outside
  `f_buf` (R24). SAFE: no state reached from reset has such an `f_len` (R36). -/
  | bufferRange
  deriving DecidableEq, Repr

/-- Why a step gives no meaning. -/
inductive Refusal where
  /-- Raised by `exec`'s arms for an instruction without a meaning; no arm does. SAFE. -/
  | notModelled (mnemonic : String)
  /-- Raised by `step` where the host's packet event holds bytes that are no packet row: the source says nothing of them
  (R187, U16: "refuse (unsaid)"). SAFE. -/
  | unknownPacket
  deriving DecidableEq, Repr

/-- Every element of R37's table, and the ports and the host's side (R21, R22, R186, R238). -/
structure State where
  /-- R23: unit G's CRC register, in the domain of `Step` (R101). -/
  g_acc : Byte
  /-- R24: the pre-checksum buffer. -/
  f_buf : Memory
  /-- R25: how many bytes `f_buf` holds. -/
  f_len : BitVec 8
  /-- R26: unit F's CRC register. -/
  f_acc : Byte
  /-- R27: the framer's phase. -/
  f_phase : Phase
  /-- R28: the latched insertion index. -/
  f_idx : BitVec 8
  /-- R29: the latched checksum. -/
  f_chk : Byte
  /-- R30: the output read pointer. -/
  f_rp : BitVec 9
  /-- R31: a fault has been recorded since reset. -/
  fault : Bool
  /-- R32: the cause of the first fault since reset. -/
  cause : Cause
  /-- The host's events not yet presented on `cmd` and `rst`, oldest first (R21, R22, R238). -/
  cmd : List HostEvent
  /-- The bytes given on `rsp`, oldest first: the observation of a run (R238). -/
  rsp : List Byte
  /-- The emitter host's frame buffer (R186, R191). -/
  fb : List Byte
  deriving DecidableEq, Repr

/-- `reset(Config)` (R230, R231), with no event pending, no response given and an empty frame buffer. Log entries 2
and 3. -/
def State.resetWith (c : Config) : State :=
  { g_acc := c.profile.init
    f_buf := []
    f_len := 0
    f_acc := c.profile.init
    f_phase := .accum
    f_idx := 0
    f_chk := 0x00
    f_rp := 0
    fault := false
    cause := .none
    cmd := []
    rsp := []
    fb := [] }

/-- The machine right after reset (R230). -/
def State.reset : State :=
  State.resetWith block

end Sys2Proof.Machine
end

