-- ==== Sys2Proof/Machine/Ops.lean ====
section
/-! DEFINITION. The shared operations: `f_buf` (spec/00_scope.md R9, spec/20_memory.md R50), the response port (R9),
recording a fault (spec/60_exceptions.md R201, R202), reset (spec/70_reset_and_hazards.md R230), and the host's side. -/

namespace Sys2Proof.Machine

/-- The byte listed at an index; `none` for an index nothing has written since reset. -/
def Memory.read (m : Memory) (a : Nat) : Option Byte :=
  match m with
  | [] => none
  | (a', v) :: rest => if a = a' then some v else Memory.read rest a

/-- Writes one byte, keeping indices strictly rising. -/
def Memory.write (m : Memory) (a : Nat) (v : Byte) : Memory :=
  match m with
  | [] => [(a, v)]
  | (a', v') :: rest =>
    if a < a' then (a, v) :: (a', v') :: rest
    else if a = a' then (a, v) :: rest
    else (a', v') :: Memory.write rest a v

/-- The canonical form: indices strictly rising. -/
def Memory.wf (m : Memory) : Bool :=
  match m with
  | [] => true
  | [_] => true
  | (a, _) :: (a', v') :: rest => decide (a < a') && Memory.wf ((a', v') :: rest)

/-- Every listed index lies below `n`. -/
def Memory.below (m : Memory) (n : Nat) : Bool :=
  m.all fun cell => decide (cell.1 < n)

/-- `f_buf[0:n]`, where all its bytes are listed (R7). -/
def Memory.firstBytes (m : Memory) (n : Nat) : Option (List Byte) :=
  (List.range n).mapM (Memory.read m)

/-- The code of a cause (R200). -/
def causeCode (c : Cause) : BitVec 3 :=
  match c with
  | .none => 0
  | .illegal => 1
  | .overflow => 2
  | .badIndex => 3
  | .phase => 4
  | .underflow => 5

/-- `READS` (spec/30_encoding.md R74): the opcodes that respond. -/
def isRead (op : Byte) : Bool :=
  op == 0x12 || op == 0x24 || op == 0x25 || op == 0x30

/-- `respond(v)` (R9): one byte on the response port. -/
def respond (v : Byte) (s : State) : State :=
  { s with rsp := s.rsp ++ [v] }

/-- A response of 0x00 exactly when `b` holds. -/
def respondZeroIf (b : Bool) (s : State) : State :=
  { s with rsp := s.rsp ++ (if b then [0x00] else []) }

/-- `raise Fault(code)` (R201): sticky, the first cause kept. -/
def raiseFault (code : Cause) (s : State) : State :=
  { s with fault := true, cause := if s.fault then s.cause else code }

/-- All that a faulting command of opcode `op` does (R202): record the fault, and respond 0x00 if `op` is in `READS`. -/
def faultingCommand (op : Byte) (code : Cause) (s : State) : State :=
  respondZeroIf (isRead op) (raiseFault code s)

/-- An ILLEGAL(op) word (R75, R76). -/
def executeIllegal (op : Byte) (s : State) : State :=
  faultingCommand op .illegal s

/-- An assertion of `rst` (R230): every element of the block to its reset value, `f_buf` left without content, no
response; what the host holds stays. -/
def assertReset (c : Config) (s : State) : State :=
  { State.resetWith c with cmd := s.cmd, rsp := s.rsp, fb := s.fb }

/-- The host takes its next event off the list. -/
def setEvents (es : List HostEvent) (s : State) : State :=
  { s with cmd := es }

/-- The host appends bytes to its frame buffer (R186, R191). -/
def appendFrameBuffer (bytes : List Byte) (s : State) : State :=
  { s with fb := s.fb ++ bytes }

/-- One operation after another, stopping at a stop. -/
def andThen (o : Host.Outcome State Fault Refusal) (f : State → Host.Outcome State Fault Refusal) :
    Host.Outcome State Fault Refusal :=
  match o with
  | .next s => f s
  | .fault r => .fault r
  | .refused r => .refused r

end Sys2Proof.Machine
end

