-- ==== Sys2Proof/Machine/Flags.lean ====
section
/-! DEFINITION. The status register STAT, a function of the state (spec/10_state.md R33). -/

namespace Sys2Proof.Machine

/-- STAT.PHASE: `f_phase` as a bit (R27). -/
def phaseBit (s : State) : Bool := s.f_phase == .emit

/-- Every byte of the framed sequence has been read: `f_rp = f_len + 1` (R30, R137). -/
def drained (s : State) : Bool := decide (s.f_rp.toNat = s.f_len.toNat + 1)

/-- STAT.DONE (R33). -/
def doneBit (s : State) : Bool := phaseBit s && drained s

/-- STAT.FULL (R33). -/
def fullBit (c : Config) (s : State) : Bool := decide (s.f_len.toNat = c.bufBytes)

/-- A flag as a byte with bit 0 set or clear. -/
def flagByte (b : Bool) : Byte := if b then 0x01 else 0x00

/-- STAT by R33's formula. -/
def statByte (c : Config) (s : State) : Byte :=
  flagByte (phaseBit s)
    ||| (flagByte s.fault <<< 1)
    ||| ((causeCode s.cause).setWidth 8 <<< 2)
    ||| (flagByte (doneBit s) <<< 5)
    ||| (flagByte (fullBit c s) <<< 6)

end Sys2Proof.Machine
end

