-- ==== Sys2Proof/Machine/Control.lean ====
section
/-! DEFINITION. The block control commands NOP and STAT (spec/42_block_control.md). -/

namespace Sys2Proof.Machine

/-- NOP (R170): no state change, no response. -/
def execNop (s : State) : Host.Outcome State Fault Refusal :=
  .next s

/-- STAT (R171). -/
def execStat (s : State) : Host.Outcome State Fault Refusal :=
  .next (respond (statByte block s) s)

end Sys2Proof.Machine
end

