-- ==== Sys2Proof/Machine/Operands.lean ====
section
/-! DEFINITION. The operand forms (spec/30_encoding.md R71 to R73) and the two implicit ways into `f_buf`
(spec/20_memory.md R50): the push at `f_len` and `OutByte` (spec/41_framer.md R132). -/

namespace Sys2Proof.Machine

/-- Format D (R72): the data byte, taken as is. -/
def dataOperand (arg : Byte) : Byte := arg

/-- Format I (R73): the insertion index, zero-extended. -/
def indexOperand (arg : Byte) : Nat := arg.toNat

/-- Where FPUSH stores: index `f_len` (R134). -/
def pushIndex (s : State) : Nat := s.f_len.toNat

/-- `f_buf[k]` as a command reads it (R24): only below `f_len`, and only where a byte is listed. Log entry 2. -/
def readBuf (s : State) (k : Nat) : Option Byte :=
  if k < s.f_len.toNat then s.f_buf.read k else none

/-- `f_buf[k] <- v` (R9, R24): `f_buf` has the indices below `BUF_BYTES` and no others. -/
def writeBuf (c : Config) (k : Nat) (v : Byte) (s : State) : Option State :=
  if k < c.bufBytes then some { s with f_buf := s.f_buf.write k v } else none

/-- `OutByte(k)` (R132), defined for `k <= f_len` with `f_idx <= f_len`. -/
def outByte (s : State) (k : Nat) : Option Byte :=
  if k ≤ s.f_len.toNat ∧ s.f_idx.toNat ≤ s.f_len.toNat then
    if k < s.f_idx.toNat then readBuf s k
    else if k = s.f_idx.toNat then some s.f_chk
    else readBuf s (k - 1)
  else none

end Sys2Proof.Machine
end

