-- ==== Sys2Proof/Machine/Generator.lean ====
section
/-! DEFINITION. Unit G: GINIT, GUPD, GREAD (spec/40_crc_generator.md section 2), each over any configuration and then
at the machine's own. -/

namespace Sys2Proof.Machine

/-- GINIT (R106). -/
def ginit (c : Config) (s : State) : State :=
  { s with g_acc := c.profile.init }

/-- GUPD d (R107). -/
def gupd (c : Config) (d : Byte) (s : State) : State :=
  { s with g_acc := crcStep c.profile s.g_acc d }

/-- GREAD (R108). -/
def gread (c : Config) (s : State) : State :=
  respond (crcFinal c.profile s.g_acc) s

/-- GINIT (R106). -/
def execGinit (s : State) : Host.Outcome State Fault Refusal :=
  .next (ginit block s)

/-- GUPD d (R107). -/
def execGupd (d : Byte) (s : State) : Host.Outcome State Fault Refusal :=
  .next (gupd block (dataOperand d) s)

/-- GREAD (R108). -/
def execGread (s : State) : Host.Outcome State Fault Refusal :=
  .next (gread block s)

end Sys2Proof.Machine
end

