-- ==== Sys2Proof/Machine/Framer.lean ====
section
/-! DEFINITION. Unit F: FCLR, FPUSH, FFRAME, FFRAMEE, FREAD, FLEN (spec/41_framer.md section 2), each over any
configuration and then at the machine's own. The order of the checks is spec/60_exceptions.md R203. -/

namespace Sys2Proof.Machine

/-- FCLR (R133): `f_buf` is left as it is. -/
def fclr (c : Config) (s : State) : State :=
  { s with f_len := 0, f_acc := c.profile.init, f_phase := .accum, f_idx := 0, f_chk := 0x00, f_rp := 0 }

/-- FPUSH d (R134). -/
def fpush (c : Config) (d : Byte) (s : State) : Host.Outcome State Fault Refusal :=
  if s.f_phase ≠ .accum then .next (faultingCommand 0x21 .phase s)
  else if fullBit c s then .next (faultingCommand 0x21 .overflow s)
  else
    match writeBuf c (pushIndex s) d s with
    | none => .fault .bufferRange
    | some t => .next { t with f_len := s.f_len + 1, f_acc := crcStep c.profile s.f_acc d }

/-- What FFRAME and FFRAMEE do once their checks have passed (R135, R136). -/
def latchFrame (c : Config) (idx : BitVec 8) (s : State) : State :=
  { s with f_chk := crcFinal c.profile s.f_acc, f_idx := idx, f_rp := 0, f_phase := .emit }

/-- FFRAME i (R135). -/
def fframe (c : Config) (i : Byte) (s : State) : State :=
  if s.f_phase ≠ .accum then faultingCommand 0x22 .phase s
  else if indexOperand i > s.f_len.toNat then faultingCommand 0x22 .badIndex s
  else latchFrame c i s

/-- FFRAMEE (R136). -/
def fframee (c : Config) (s : State) : State :=
  if s.f_phase ≠ .accum then faultingCommand 0x23 .phase s
  else latchFrame c s.f_len s

/-- FREAD (R137). -/
def fread (s : State) : Host.Outcome State Fault Refusal :=
  if s.f_phase ≠ .emit then .next (faultingCommand 0x24 .phase s)
  else if drained s then .next (faultingCommand 0x24 .underflow s)
  else
    match outByte s s.f_rp.toNat with
    | none => .fault .bufferUnread
    | some v => .next { respond v s with f_rp := s.f_rp + 1 }

/-- FLEN (R138). -/
def flen (s : State) : State :=
  respond s.f_len s

/-- FCLR (R133). -/
def execFclr (s : State) : Host.Outcome State Fault Refusal :=
  .next (fclr block s)

/-- FPUSH d (R134). -/
def execFpush (d : Byte) (s : State) : Host.Outcome State Fault Refusal :=
  fpush block (dataOperand d) s

/-- FFRAME i (R135). -/
def execFframe (i : Byte) (s : State) : Host.Outcome State Fault Refusal :=
  .next (fframe block i s)

/-- FFRAMEE (R136). -/
def execFframee (s : State) : Host.Outcome State Fault Refusal :=
  .next (fframee block s)

/-- FREAD (R137). -/
def execFread (s : State) : Host.Outcome State Fault Refusal :=
  fread s

/-- FLEN (R138). -/
def execFlen (s : State) : Host.Outcome State Fault Refusal :=
  .next (flen s)

end Sys2Proof.Machine
end

