-- ==== Sys2Proof/Decode.lean ====
section
/-! DEFINITION. Decoding, total on every word and every byte sequence (spec/30_encoding.md R70 to R77,
spec/43_packet_formats.md R180 to R188), and after it the encoder. -/

namespace Sys2Proof

/-- What decoding answers: an instruction; an illegal word, named by its opcode (R75); or bytes that are no packet row
of the table (R187: "begins no known packet"). -/
inductive Decoded where
  | instr (i : Instr)
  | illegal (op : Byte)
  | unknownPacket
  deriving DecidableEq, Repr

/-- What the next host event turns out to be: none pending, a reset, or something decoded. -/
inductive Fetched where
  | idle
  | reset
  | decoded (d : Decoded)
  deriving DecidableEq, Repr

/-- The command opcode `w[15:8]` (R70). -/
def opOf (w : Word16) : Byte := w.extractLsb' 8 8

/-- The operand byte `w[7:0]` (R70). -/
def argOf (w : Word16) : Byte := w.extractLsb' 0 8

/-- `w = (op << 8) | arg` (R70). -/
def wordOf (op arg : Byte) : Word16 :=
  (op.setWidth 16 <<< 8) ||| arg.setWidth 16

/-- Format N (R71): the operand byte must be 0x00, and any other is illegal. -/
def formatN (i : Instr) (w : Word16) : Decoded :=
  if argOf w = 0x00 then .instr i else .illegal (opOf w)

/-- `decode` of R75, on every 16-bit word. -/
def decodeWord (w : Word16) : Decoded :=
  match (opOf w).toNat with
  | 0x00 => formatN .nop w
  | 0x10 => formatN .ginit w
  | 0x11 => .instr (.gupd (argOf w))
  | 0x12 => formatN .gread w
  | 0x20 => formatN .fclr w
  | 0x21 => .instr (.fpush (argOf w))
  | 0x22 => .instr (.fframe (argOf w))
  | 0x23 => formatN .fframee w
  | 0x24 => formatN .fread w
  | 0x25 => formatN .flen w
  | 0x30 => formatN .stat w
  | _ => .illegal (opOf w)

/-- A packet row is known by its byte 0 and its length, which for brightness is N + 2 for any N (R182, R187); the sentinel
is exactly its two bytes (R188). Log entry 7. -/
def decodePacket (bytes : List Byte) : Decoded :=
  match bytes with
  | op :: c :: r =>
    if op = 0xAA then .instr (.pktBrightness c r)
    else
      match r with
      | [] => if op = 0xEE ∧ c = 0x00 then .instr .sentinel else .unknownPacket
      | [p1, p2] => if op = 0x1F then .instr (.pktStatus c p1 p2) else .unknownPacket
      | [r0, r1, r2] => if op = 0xAB then .instr (.pktMonitor c r0 r1 r2) else .unknownPacket
      | [r0, r1, k, r2, r3] => if op = 0xAC then .instr (.pktPid c r0 r1 k r2 r3) else .unknownPacket
      | _ => .unknownPacket
  | _ => .unknownPacket

/-- What a host event is. -/
def decode (e : HostEvent) : Fetched :=
  match e with
  | .word w => .decoded (decodeWord w)
  | .rst => .reset
  | .packet bytes => .decoded (decodePacket bytes)

/-- The host event an instruction is presented as: a command's word by R74's table, a packet row's bytes by its layout
(R181 to R184, R188). -/
def encode (i : Instr) : HostEvent :=
  match i with
  | .nop => .word (wordOf 0x00 0x00)
  | .ginit => .word (wordOf 0x10 0x00)
  | .gupd d => .word (wordOf 0x11 d)
  | .gread => .word (wordOf 0x12 0x00)
  | .fclr => .word (wordOf 0x20 0x00)
  | .fpush d => .word (wordOf 0x21 d)
  | .fframe i => .word (wordOf 0x22 i)
  | .fframee => .word (wordOf 0x23 0x00)
  | .fread => .word (wordOf 0x24 0x00)
  | .flen => .word (wordOf 0x25 0x00)
  | .stat => .word (wordOf 0x30 0x00)
  | .pktStatus c p1 p2 => .packet [0x1F, c, p1, p2]
  | .pktBrightness c r => .packet (0xAA :: c :: r)
  | .pktMonitor c r0 r1 r2 => .packet [0xAB, c, r0, r1, r2]
  | .pktPid c r0 r1 k r2 r3 => .packet [0xAC, c, r0, r1, k, r2, r3]
  | .sentinel => .packet [0xEE, 0x00]

/-- A command word on a byte-serial carrier: the op byte first (R53). -/
def toCarrier (w : Word16) : List Byte := [opOf w, argOf w]

/-- The command word two carrier bytes make (R53). -/
def ofCarrier (bytes : List Byte) : Option Word16 :=
  match bytes with
  | [op, arg] => some (wordOf op arg)
  | _ => none

/-- The framed length a packet's byte 0 implies where brightness packets have n payload bytes (R187); `none` where it
begins no known packet. -/
def packetLength (n : Nat) (op : Byte) : Option Nat :=
  match op.toNat with
  | 0x1F => some 4
  | 0xAA => some (n + 2)
  | 0xAB => some 5
  | 0xAC => some 7
  | _ => none

/-- The bytes of a number, byte 0 from bits 7..0, as spec/opcode_table.json numbers a packet row. -/
def bytesOfNat (n w : Nat) : List Byte :=
  match n with
  | 0 => []
  | n + 1 => BitVec.ofNat 8 w :: bytesOfNat n (w / 256)

/-- How the table's bits of a row are presented: 16 bits are a command word, but for 0x00EE, which is no command (R76)
and is the sentinel's two bytes; any other number of bits is a packet row, with zeros up to the length byte 0 implies with N = 1.
Log entry 6. -/
def tableEvent (nbits w : Nat) : HostEvent :=
  if nbits = 16 ∧ w % 65536 ≠ 0x00EE then .word (BitVec.ofNat 16 w)
  else if w % 256 = 0xEE then .packet (bytesOfNat (max 2 (nbits / 8)) w)
  else .packet (bytesOfNat (max ((packetLength 1 (BitVec.ofNat 8 w)).getD 0) (nbits / 8)) w)

/-- The instruction the decoder reads from a row's bits, numbered as spec/opcode_table.json numbers them. -/
def decodeTableWord (nbits w : Nat) : Option Instr :=
  match decode (tableEvent nbits w) with
  | .decoded (.instr i) => some i
  | _ => none

end Sys2Proof
end

