-- ==== Sys2Proof/Machine/Layout.lean ====
section
/-! DEFINITION. The packet layouts as data (spec/43_packet_formats.md R180 to R187, R189): pre-checksum buffers, the frame
buffer, splitting a byte stream, and the check of a packet. -/

namespace Sys2Proof.Machine

/-- The pre-checksum buffer b of a packet row: every byte of its layout but the checksum byte (R180 to R184). A command
and the raw sentinel (R188) have none. -/
def preChecksum (i : Instr) : Option (List Byte) :=
  match i with
  | .pktStatus _ p1 p2 => some [0x1F, p1, p2]
  | .pktBrightness _ r => some (0xAA :: r)
  | .pktMonitor _ r0 r1 r2 => some [0xAB, r0, r1, r2]
  | .pktPid _ r0 r1 k r2 r3 => some [0xAC, r0, r1, k, r2, r3]
  | .nop | .ginit | .gupd _ | .gread | .fclr | .fpush _ | .fframe _ | .fframee | .fread | .flen | .stat
  | .sentinel => none

/-- The pre-checksum length R187's table gives with byte 0, where brightness packets have n payload bytes. -/
def preChecksumLength (n : Nat) (op : Byte) : Option Nat :=
  (packetLength n op).map (· - 1)

/-- `f_buf` has room for the row's pre-checksum buffer (R5, R134). Of the rows only a brightness packet can lack it. -/
def fits (c : Config) (i : Instr) : Bool :=
  match preChecksum i with
  | some b => decide (b.length ≤ c.bufBytes)
  | none => true

/-- The index every packet the source builds takes its checksum at (R180). -/
def packetIndex : Nat := 1

/-- The status packet (R181), with its checksum under profile `p`. -/
def statusPacket (p : Profile) : Instr :=
  .pktStatus (crc p [0x1F, 0xF0, 0x00]) 0xF0 0x00

/-- The brightness packet of N payload bytes (R182). -/
def brightnessPacket (p : Profile) (r : List Byte) : Instr :=
  .pktBrightness (crc p (0xAA :: r)) r

/-- The monitor packet of three payload bytes (R183). -/
def monitorPacket (p : Profile) (r0 r1 r2 : Byte) : Instr :=
  .pktMonitor (crc p [0xAB, r0, r1, r2]) r0 r1 r2

/-- The PID packet of four payload bytes (R184). -/
def pidPacket (p : Profile) (r0 r1 r2 r3 : Byte) : Instr :=
  .pktPid (crc p [0xAC, r0, r1, 0xDE, r2, r3]) r0 r1 0xDE r2 r3

/-- One loop iteration's packets in the order of R186; the payload bytes are the draws of R185, `b` the N of
brightness. -/
def emitterIteration (p : Profile) (b : List Byte) (m0 m1 m2 p0 p1 p2 p3 : Byte) : List Instr :=
  [statusPacket p, brightnessPacket p b, monitorPacket p m0 m1 m2, pidPacket p p0 p1 p2 p3]

/-- The frame buffer `FB = Status ++ Brightness ++ Monitor ++ PID` of one loop iteration (R186), each part `Frame(b, 1)`
(R181 to R184), with N brightness bytes. -/
def frameBuffer (p : Profile) (b : List Byte) (m0 m1 m2 p0 p1 p2 p3 : Byte) : List Byte :=
  [0x1F, crc p [0x1F, 0xF0, 0x00], 0xF0, 0x00] ++
  (0xAA :: crc p (0xAA :: b) :: b) ++
  [0xAB, crc p [0xAB, m0, m1, m2], m0, m1, m2] ++
  [0xAC, crc p [0xAC, p0, p1, 0xDE, p2, p3], p0, p1, 0xDE, p2, p3]

/-- The check of a packet (R189): its byte 0 and length agree with R187, and byte 1 is the CRC of the rest;
brightness packets have n payload bytes. -/
def packetIntact (n : Nat) (p : Profile) (bytes : List Byte) : Bool :=
  match bytes with
  | op :: c :: rest => packetLength n op == some bytes.length && c == crc p (op :: rest)
  | _ => false

/-- Splits the first packet off a byte stream by the length its byte 0 implies, brightness packets having n
payload bytes (R187). DESIGN CHOICE (log entry 12):
R187 does not say what a reader does where byte 0 begins no known packet, or where the stream ends inside the packet;
both answer `none`. -/
def splitPacket (n : Nat) (stream : List Byte) : Option (List Byte × List Byte) :=
  match stream with
  | [] => none
  | op :: _ =>
    match packetLength n op with
    | some l => if l ≤ stream.length then some (stream.take l, stream.drop l) else none
    | none => none

/-- Splits a byte stream into at most `count` packets (R187). DESIGN CHOICE (log entry 12): where bytes are left that begin no
known packet, that are fewer than byte 0 implies, or that come after `count` packets, the whole answers `none` and the packets
already split off are dropped. -/
def splitPackets (n count : Nat) (stream : List Byte) : Option (List (List Byte)) :=
  match count, stream with
  | _, [] => some []
  | 0, _ :: _ => none
  | count + 1, op :: rest =>
    match splitPacket n (op :: rest) with
    | none => none
    | some (q, more) => (splitPackets n count more).map (q :: ·)

end Sys2Proof.Machine
end

