-- ==== Sys2Proof/Machine/Packets.lean ====
section
/-! DEFINITION. The packet rows of the table: the host builds a packet on the block (spec/43_packet_formats.md R191,
spec/30_encoding.md R80) and appends what the block gives back to its frame buffer; the sentinel is sent raw (R188).
Log entries 5 and 7. -/

namespace Sys2Proof.Machine

/-- One FPUSH for each byte of b, in order. -/
def pushAll (c : Config) (b : List Byte) (s : State) : Host.Outcome State Fault Refusal :=
  match b with
  | [] => .next s
  | d :: rest => andThen (fpush c d s) (pushAll c rest)

/-- FREAD n times. -/
def readAll (n : Nat) (s : State) : Host.Outcome State Fault Refusal :=
  match n with
  | 0 => .next s
  | n + 1 => andThen (fread s) (readAll n)

/-- `FRAME b @ i` (R80): FCLR, the FPUSHes, FFRAME i, then n + 1 FREADs. -/
def frameOnBlock (c : Config) (b : List Byte) (i : Byte) (s : State) : Host.Outcome State Fault Refusal :=
  andThen (pushAll c b (fclr c s)) fun t => readAll (b.length + 1) (fframe c i t)

/-- The host concatenates the responses given since it began (R191). -/
def collectResponses (before after : State) : State :=
  appendFrameBuffer (after.rsp.drop before.rsp.length) after

/-- Builds the packet of pre-checksum buffer b on the block, its checksum at index 1 (R180, R191). -/
def buildPacket (c : Config) (b : List Byte) (s : State) : Host.Outcome State Fault Refusal :=
  andThen (frameOnBlock c b (BitVec.ofNat 8 packetIndex) s) fun t => .next (collectResponses s t)

/-- PKT_STATUS (R181): the checksum byte of the row is the block's to compute, not an input. -/
def execPktStatus (_c p1 p2 : Byte) (s : State) : Host.Outcome State Fault Refusal :=
  buildPacket block [0x1F, p1, p2] s

/-- PKT_BRIGHTNESS (R182), for any N. Where N + 1 bytes do not fit `f_buf`, the commands fault by their own rules (R134,
R137) and the host gets what they respond. -/
def execPktBrightness (_c : Byte) (r : List Byte) (s : State) : Host.Outcome State Fault Refusal :=
  buildPacket block (0xAA :: r) s

/-- PKT_MONITOR (R183). -/
def execPktMonitor (_c r0 r1 r2 : Byte) (s : State) : Host.Outcome State Fault Refusal :=
  buildPacket block [0xAB, r0, r1, r2] s

/-- PKT_PID (R184). -/
def execPktPid (_c r0 r1 k r2 r3 : Byte) (s : State) : Host.Outcome State Fault Refusal :=
  buildPacket block [0xAC, r0, r1, k, r2, r3] s

/-- SENTINEL (R188): two raw bytes, without a checksum; the block is not used. -/
def execSentinel (s : State) : Host.Outcome State Fault Refusal :=
  .next (appendFrameBuffer [0xEE, 0x00] s)

end Sys2Proof.Machine
end

