-- ==== Sys2Proof/Machine/Dispatch.lean ====
section
/-! DEFINITION. One arm per constructor of Instr. -/

namespace Sys2Proof.Machine

def exec (i : Instr) (s : State) : Host.Outcome State Fault Refusal :=
  match i with
  | .nop => Sys2Proof.Machine.execNop s
  | .ginit => Sys2Proof.Machine.execGinit s
  | .gupd d => Sys2Proof.Machine.execGupd d s
  | .gread => Sys2Proof.Machine.execGread s
  | .fclr => Sys2Proof.Machine.execFclr s
  | .fpush d => Sys2Proof.Machine.execFpush d s
  | .fframe idx => Sys2Proof.Machine.execFframe idx s
  | .fframee => Sys2Proof.Machine.execFframee s
  | .fread => Sys2Proof.Machine.execFread s
  | .flen => Sys2Proof.Machine.execFlen s
  | .stat => Sys2Proof.Machine.execStat s
  | .pktStatus c p1 p2 => Sys2Proof.Machine.execPktStatus c p1 p2 s
  | .pktBrightness c r => Sys2Proof.Machine.execPktBrightness c r s
  | .pktMonitor c r0 r1 r2 => Sys2Proof.Machine.execPktMonitor c r0 r1 r2 s
  | .pktPid c r0 r1 k r2 r3 => Sys2Proof.Machine.execPktPid c r0 r1 k r2 r3 s
  | .sentinel => Sys2Proof.Machine.execSentinel s

end Sys2Proof.Machine
end

