-- ==== Sys2Proof/Machine/Fetch.lean ====
section
/-! DEFINITION. Taking the host's next event (spec/10_state.md R22, R34: there is no program counter, "the next
instruction" is the host's next word). -/

namespace Sys2Proof.Machine

/-- What the host's next event is, and the state once it has been taken; idle where none is pending. Log entry 3. -/
def fetch (s : State) : Fetched × State :=
  match s.cmd with
  | [] => (.idle, s)
  | e :: rest => (decode e, setEvents rest s)

/-- One step of the block at configuration c (R21): takes the host's next event and runs the instruction it decodes to,
records an illegal word (R75, R76) or applies a reset (R230); with no event pending nothing changes (R213). -/
def takeEvent (c : Config) (run : Instr → State → Host.Outcome State Fault Refusal) (s : State) :
    Host.Outcome State Fault Refusal :=
  match fetch s with
  | (.idle, t) => .next t
  | (.reset, t) => .next (assertReset c t)
  | (.decoded (.instr i), t) => run i t
  | (.decoded (.illegal op), t) => .next (executeIllegal op t)
  | (.decoded .unknownPacket, _) => .refused .unknownPacket

/-- Presents an event before all others. -/
def presentNext (e : HostEvent) (s : State) : State :=
  setEvents (e :: s.cmd) s

end Sys2Proof.Machine
end

