-- ==== Sys2Proof/Machine/Step.lean ====
section
/-! DEFINITION. One step: one host event (spec/20_memory.md R55, spec/70_reset_and_hazards.md R236, R238). -/

namespace Sys2Proof.Machine

/-- One step of this machine, at its configuration `block`: the host's next event, an instruction run by `exec`. -/
def step (s : State) : Host.Outcome State Fault Refusal :=
  takeEvent block exec s

/-- The state with the row's instruction as the host's next event. Log entry 6. -/
def State.withFetchWord (s : State) (nbits w : Nat) : State :=
  presentNext (tableEvent nbits w) s

end Sys2Proof.Machine
end

