-- ==== Sys2Proof/Machine/Pseudo.lean ====
section
/-! DEFINITION. The pseudo-instructions (spec/30_encoding.md R80), as the commands each expands to, in order. -/

namespace Sys2Proof.Machine

/-- `CRC8 b0, .., bn-1`. -/
def pseudoCrc8 (b : List Byte) : List Instr :=
  .ginit :: b.map .gupd ++ [.gread]

/-- `DRAIN k`. -/
def pseudoDrain (k : Nat) : List Instr :=
  List.replicate k .fread

/-- `FRAME b0, .., bn-1 @ i`. -/
def pseudoFrame (b : List Byte) (i : Byte) : List Instr :=
  .fclr :: b.map .fpush ++ [.fframe i] ++ pseudoDrain (b.length + 1)

/-- `FRAMEE b0, .., bn-1`. -/
def pseudoFramee (b : List Byte) : List Instr :=
  .fclr :: b.map .fpush ++ [.fframee] ++ pseudoDrain (b.length + 1)

end Sys2Proof.Machine
end

