-- ==== Sys2Proof/Machine/Assembler.lean ====
section
/-! DEFINITION. Assembler form, one command or pseudo-instruction a line (spec/30_encoding.md R79, R80), on lists of
characters. Log entry 8. -/

namespace Sys2Proof.Machine

/-- Why a line does not assemble: no such mnemonic, operands of the wrong form, or an operand outside 0..255 (R79). -/
inductive AsmError where
  | unknownMnemonic
  | badOperand
  | operandRange
  deriving DecidableEq, Repr

/-- `;` starts a comment (R79). -/
def stripComment (line : List Char) : List Char :=
  match line with
  | [] => []
  | ch :: rest => if ch = ';' then [] else ch :: stripComment rest

/-- The token collected so far, read backwards. -/
def endToken (cur : List Char) : List (List Char) :=
  if cur = [] then [] else [cur.reverse]

/-- Splits at blanks; `,` and `@` are tokens of their own. -/
def tokenize (cur line : List Char) : List (List Char) :=
  match line with
  | [] => endToken cur
  | ch :: rest =>
    if ch = ' ' ∨ ch = '\t' then endToken cur ++ tokenize [] rest
    else if ch = ',' ∨ ch = '@' then endToken cur ++ [ch] :: tokenize [] rest
    else tokenize (ch :: cur) rest

/-- The value of a hex digit in either case (R6), below `base`. -/
def digitValue (base : Nat) (ch : Char) : Option Nat :=
  let n := ch.toNat
  let v :=
    if 48 ≤ n ∧ n ≤ 57 then n - 48
    else if 65 ≤ n ∧ n ≤ 70 then n - 55
    else if 97 ≤ n ∧ n ≤ 102 then n - 87
    else base
  if v < base then some v else none

/-- Reads digits, most significant first, onto `acc`. -/
def readDigits (base acc : Nat) (digits : List Char) : Option Nat :=
  match digits with
  | [] => some acc
  | ch :: rest =>
    match digitValue base ch with
    | some v => readDigits base (acc * base + v) rest
    | none => none

/-- `0xHH`. -/
def readHex (token : List Char) : Option Nat :=
  match token with
  | '0' :: 'x' :: d :: rest => readDigits 16 0 (d :: rest)
  | _ => none

/-- A number in decimal or as `0xHH`. -/
def readNumber (token : List Char) : Option Nat :=
  match readHex token with
  | some n => some n
  | none =>
    match token with
    | [] => none
    | d :: rest => readDigits 10 0 (d :: rest)

/-- An operand of a command lies in 0..255 (R79). -/
def byteOperand (n : Option Nat) : Except AsmError Byte :=
  match n with
  | none => .error .badOperand
  | some v => if v ≤ 255 then .ok (BitVec.ofNat 8 v) else .error .operandRange

/-- Data bytes separated by commas. -/
def byteList (tokens : List (List Char)) : Except AsmError (List Byte) :=
  match tokens with
  | [] => .ok []
  | [t] => (byteOperand (readHex t)).map ([·])
  | t :: sep :: rest =>
    if sep = [','] ∧ rest ≠ [] then
      match byteOperand (readHex t), byteList rest with
      | .ok d, .ok ds => .ok (d :: ds)
      | .error e, _ => .error e
      | _, .error e => .error e
    else .error .badOperand

/-- The operands of FRAME: data bytes, `@`, index. -/
def frameOperands (tokens : List (List Char)) : Except AsmError (List Instr) :=
  let bytes := tokens.takeWhile (· ≠ ['@'])
  match tokens.dropWhile (· ≠ ['@']) with
  | [_, t] =>
    match byteList bytes, byteOperand (readNumber t) with
    | .ok b, .ok i => .ok (pseudoFrame b i)
    | .error e, _ => .error e
    | _, .error e => .error e
  | _ => .error .badOperand

/-- A format-N line has no operand. -/
def noOperands (i : Instr) (operands : List (List Char)) : Except AsmError (List Instr) :=
  if operands = [] then .ok [i] else .error .badOperand

/-- A line with one operand, made into commands. -/
def oneOperand (operands : List (List Char)) (f : List Char → Except AsmError (List Instr)) :
    Except AsmError (List Instr) :=
  match operands with
  | [t] => f t
  | _ => .error .badOperand

/-- The commands of a mnemonic with its operands (R74, R79, R80). -/
def assembleTokens (mnemonic : List Char) (operands : List (List Char)) : Except AsmError (List Instr) :=
  if mnemonic = ['N', 'O', 'P'] then noOperands .nop operands
  else if mnemonic = ['G', 'I', 'N', 'I', 'T'] then noOperands .ginit operands
  else if mnemonic = ['G', 'U', 'P', 'D'] then
    oneOperand operands fun t => (byteOperand (readHex t)).map fun d => [.gupd d]
  else if mnemonic = ['G', 'R', 'E', 'A', 'D'] then noOperands .gread operands
  else if mnemonic = ['F', 'C', 'L', 'R'] then noOperands .fclr operands
  else if mnemonic = ['F', 'P', 'U', 'S', 'H'] then
    oneOperand operands fun t => (byteOperand (readHex t)).map fun d => [.fpush d]
  else if mnemonic = ['F', 'F', 'R', 'A', 'M', 'E'] then
    oneOperand operands fun t => (byteOperand (readNumber t)).map fun i => [.fframe i]
  else if mnemonic = ['F', 'F', 'R', 'A', 'M', 'E', 'E'] then noOperands .fframee operands
  else if mnemonic = ['F', 'R', 'E', 'A', 'D'] then noOperands .fread operands
  else if mnemonic = ['F', 'L', 'E', 'N'] then noOperands .flen operands
  else if mnemonic = ['S', 'T', 'A', 'T'] then noOperands .stat operands
  else if mnemonic = ['C', 'R', 'C', '8'] then (byteList operands).map pseudoCrc8
  else if mnemonic = ['F', 'R', 'A', 'M', 'E'] then frameOperands operands
  else if mnemonic = ['F', 'R', 'A', 'M', 'E', 'E'] then (byteList operands).map pseudoFramee
  else if mnemonic = ['D', 'R', 'A', 'I', 'N'] then
    oneOperand operands fun t =>
      match readNumber t with
      | some k => .ok (pseudoDrain k)
      | none => .error .badOperand
  else .error .unknownMnemonic

/-- The commands of one line; a blank or comment line has none. -/
def assembleLine (line : List Char) : Except AsmError (List Instr) :=
  match tokenize [] (stripComment line) with
  | [] => .ok []
  | mnemonic :: operands => assembleTokens mnemonic operands

/-- A hex digit. -/
def hexDigit (n : Nat) : Char :=
  if n < 10 then Char.ofNat (48 + n) else Char.ofNat (55 + n)

/-- `0xHH`. -/
def hexByte (d : Byte) : List Char :=
  ['0', 'x', hexDigit (d.toNat / 16), hexDigit (d.toNat % 16)]

/-- A command's line (R79); a packet row is no command and has none. -/
def asmLine (i : Instr) : Option (List Char) :=
  match i with
  | .nop => some ['N', 'O', 'P']
  | .ginit => some ['G', 'I', 'N', 'I', 'T']
  | .gupd d => some (['G', 'U', 'P', 'D', ' '] ++ hexByte d)
  | .gread => some ['G', 'R', 'E', 'A', 'D']
  | .fclr => some ['F', 'C', 'L', 'R']
  | .fpush d => some (['F', 'P', 'U', 'S', 'H', ' '] ++ hexByte d)
  | .fframe i => some (['F', 'F', 'R', 'A', 'M', 'E', ' '] ++ hexByte i)
  | .fframee => some ['F', 'F', 'R', 'A', 'M', 'E', 'E']
  | .fread => some ['F', 'R', 'E', 'A', 'D']
  | .flen => some ['F', 'L', 'E', 'N']
  | .stat => some ['S', 'T', 'A', 'T']
  | .pktStatus _ _ _ | .pktBrightness _ _ | .pktMonitor _ _ _ _ | .pktPid _ _ _ _ _ _ | .sentinel => none

end Sys2Proof.Machine
end

