-- ==== Sys2Proof/Machine/Configured.lean ====
section
/-! DEFINITION. The block at any configuration: `step : Config -> State -> Word16 -> State x Option Byte` (spec/10_state.md
R21), with Config a parameter of the step (R35). `exec` and `step` are these at `block`. -/

namespace Sys2Proof.Machine

/-- An instruction at configuration c, one operation per row. -/
def execWith (c : Config) (i : Instr) (s : State) : Host.Outcome State Fault Refusal :=
  match i with
  | .nop => .next s
  | .ginit => .next (ginit c s)
  | .gupd d => .next (gupd c (dataOperand d) s)
  | .gread => .next (gread c s)
  | .fclr => .next (fclr c s)
  | .fpush d => fpush c (dataOperand d) s
  | .fframe idx => .next (fframe c idx s)
  | .fframee => .next (fframee c s)
  | .fread => fread s
  | .flen => .next (flen s)
  | .stat => .next (respond (statByte c s) s)
  | .pktStatus _ p1 p2 => buildPacket c [0x1F, p1, p2] s
  | .pktBrightness _ r => buildPacket c (0xAA :: r) s
  | .pktMonitor _ r0 r1 r2 => buildPacket c [0xAB, r0, r1, r2] s
  | .pktPid _ r0 r1 k r2 r3 => buildPacket c [0xAC, r0, r1, k, r2, r3] s
  | .sentinel => .next (appendFrameBuffer [0xEE, 0x00] s)

/-- A step at configuration c. -/
def stepWith (c : Config) (s : State) : Host.Outcome State Fault Refusal :=
  takeEvent c (execWith c) s

/-- R21's step: one command word at configuration c, the next state and the byte on `rsp`, if any. `none` is a stop, which
no state the block reaches takes (log entry 4). -/
def commandStep (c : Config) (s : State) (w : Word16) : Option (State × Option Byte) :=
  match stepWith c (presentNext (.word w) s) with
  | .next t => some (t, (t.rsp.drop s.rsp.length).head?)
  | .fault _ => none
  | .refused _ => none

end Sys2Proof.Machine
end

