-- ==== Sys2Proof/Machine/Emitter.lean ====
section
/-! DEFINITION. The emitter host around the block: the initialisation write (spec/43_packet_formats.md R188) and the loop
(R190), as the rows the host has built or sent in each transport write. Log entries 11 and 13. -/

namespace Sys2Proof.Machine

/-- What the emitter does on the transport, in order. -/
inductive EmitterAct where
  /-- One transport write of the bytes these rows put into the frame buffer. -/
  | write (rows : List Instr)
  /-- The pad-delay between init writes (R188). No rule depends on it (R237). -/
  | padDelay (duration : Nat)
  /-- The fixed pause between loop iterations (R190). No rule depends on it (R237). -/
  | pause (milliseconds : Nat)
  deriving DecidableEq, Repr

/-- The init brightness packet, of one literal payload byte (R188: "N=1 literal"). -/
def initBrightnessPacket : Instr := brightnessPacket block.profile [Config.freeInitBrightness]

/-- The init monitor packet (R188). -/
def initMonitorPacket : Instr :=
  monitorPacket block.profile Config.freeInitMonitor.1 Config.freeInitMonitor.2.1 Config.freeInitMonitor.2.2

/-- The init PID packet (R188). -/
def initPidPacket : Instr :=
  pidPacket block.profile Config.freeInitPid.1 Config.freeInitPid.2.1 Config.freeInitPid.2.2.1
    Config.freeInitPid.2.2.2

/-- The packets with "fixed, non-random payloads" (R188): the status packet of R181 and the three whose literals are
OPEN. -/
def initPacket (k : Fin 4) : Instr :=
  match k with
  | 0 => statusPacket block.profile
  | 1 => initBrightnessPacket
  | 2 => initMonitorPacket
  | 3 => initPidPacket

/-- The rows of the init phase (R188): it "begins with the 2-byte sentinel" and then carries the fixed packets.
DESIGN CHOICE (log entry 13): each of the four once, in a free order. -/
def initRows : List Instr :=
  .sentinel :: List.ofFn (initPacket ∘ Config.freeInitOrder)

/-- Rows spread over n + 1 writes, each but the last of at least one row while rows are left. -/
def splitWrites (n : Nat) (sizes : Nat → Nat) (rows : List Instr) : List (List Instr) :=
  match n with
  | 0 => [rows]
  | n + 1 => rows.take (sizes n + 1) :: splitWrites n sizes (rows.drop (sizes n + 1))

/-- The init writes (R188), their number and which rows each carries free. -/
def initWrites : List (List Instr) :=
  splitWrites Config.freeInitWrites Config.freeInitSizes initRows

/-- The init phase (R188): its writes, "with a pad-delay between writes". -/
def initPhase : List EmitterAct :=
  (initWrites.map .write).intersperse (.padDelay Config.freePadDelay)

/-- The random payload bytes of one loop iteration (R185), brightness (N = 1, R182), monitor and PID
in order. -/
structure Draws where
  brightness : Byte
  monitor : Byte × Byte × Byte
  pid : Byte × Byte × Byte × Byte
  deriving DecidableEq, Repr

/-- The rows of one iteration, by its draws (R186). -/
def drawnIteration (d : Draws) : List Instr :=
  emitterIteration block.profile [d.brightness] d.monitor.1 d.monitor.2.1 d.monitor.2.2 d.pid.1 d.pid.2.1 d.pid.2.2.1
    d.pid.2.2.2

/-- The frame buffer of one iteration, by its draws (R186). -/
def drawnFrameBuffer (d : Draws) : List Byte :=
  frameBuffer block.profile [d.brightness] d.monitor.1 d.monitor.2.1 d.monitor.2.2 d.pid.1 d.pid.2.1 d.pid.2.2.1
    d.pid.2.2.2

/-- The loop (R190): for each iteration's draws "a fresh buffer", one write of it (R186), and the pause of 50 ms. It is
unbounded, so what has been done is given by the draws so far. -/
def emitterLoop (draws : List Draws) : List EmitterAct :=
  draws.flatMap fun d => [.write (drawnIteration d), .pause 50]

/-- The emitter so far (R188, R190): the init phase, "optional and one-shot", precedes the loop. -/
def emitter (withInit : Bool) (draws : List Draws) : List EmitterAct :=
  (if withInit then initPhase else []) ++ emitterLoop draws

/-- The rows of all writes among some acts, in order: what the host has executed on the block. -/
def writtenRows (acts : List EmitterAct) : List Instr :=
  acts.flatMap fun a =>
    match a with
    | .write rows => rows
    | .padDelay _ => []
    | .pause _ => []

end Sys2Proof.Machine
end

