-- ==== Sys2Proof/WellFormed.lean ====
section
/-! DEFINITION. Well-formed instructions: every command is (spec/30_encoding.md R71 to R73: every operand value is
legal), and a packet row is when its bytes are those of a packet the source builds (spec/43_packet_formats.md R180 to
R184). -/

namespace Sys2Proof

/-- The fixed payload bytes of the layout stand in their places (R181, R184). -/
def fixedBytesOk (i : Instr) : Bool :=
  match i with
  | .pktStatus _ p1 p2 => p1 == 0xF0 && p2 == 0x00
  | .pktPid _ _ _ k _ _ => k == 0xDE
  | .nop | .ginit | .gupd _ | .gread | .fclr | .fpush _ | .fframe _ | .fframee | .fread | .flen | .stat
  | .pktBrightness _ _ | .pktMonitor _ _ _ _ | .sentinel => true

/-- The byte a packet row holds at index 1, where its layout has `c` (R180). -/
def checksumByte (i : Instr) : Option Byte :=
  match i with
  | .pktStatus c _ _ | .pktBrightness c _ | .pktMonitor c _ _ _ | .pktPid c _ _ _ _ _ => some c
  | .nop | .ginit | .gupd _ | .gread | .fclr | .fpush _ | .fframe _ | .fframee | .fread | .flen | .stat
  | .sentinel => none

/-- `p[1] = CRC(p[0:1] ++ p[2:])` (R180), under the machine's profile. -/
def checksumOk (i : Instr) : Bool :=
  checksumByte i == (Machine.preChecksum i).map (Machine.crc Machine.block.profile)

/-- A packet of the source's layouts that `f_buf` has room to build (R5, R182), or any command. -/
def WellFormed (i : Instr) : Bool :=
  fixedBytesOk i && checksumOk i && Machine.fits Machine.block i

end Sys2Proof
end

