-- ==== Sys2Proof/Safety.lean ====
section
/-! DEFINITION. The terms claims use: runs of instructions, the fault table (spec/60_exceptions.md R200), runs of the
host's words and resets with their observation and "no fault recorded" (spec/70_reset_and_hazards.md R238), and the
invariant of spec/10_state.md R36. -/

namespace Sys2Proof.Machine

/-- Instructions executed one after another, stopping at a stop. -/
def runInstrs (is : List Instr) (s : State) : Host.Outcome State Fault Refusal :=
  match is with
  | [] => .next s
  | i :: rest => andThen (exec i s) (runInstrs rest)

/-- A command of unit G (spec/00_scope.md R12). -/
def isGenerator (i : Instr) : Bool :=
  match i with
  | .ginit | .gupd _ | .gread => true
  | .nop | .fclr | .fpush _ | .fframe _ | .fframee | .fread | .flen | .stat
  | .pktStatus _ _ _ | .pktBrightness _ _ | .pktMonitor _ _ _ _ | .pktPid _ _ _ _ _ _ | .sentinel => false

/-- A row of the table that is a command, not a packet row (spec/30_encoding.md R74, R81). -/
def isCommand (i : Instr) : Bool :=
  match i with
  | .nop | .ginit | .gupd _ | .gread | .fclr | .fpush _ | .fframe _ | .fframee | .fread | .flen | .stat => true
  | .pktStatus _ _ _ | .pktBrightness _ _ | .pktMonitor _ _ _ _ | .pktPid _ _ _ _ _ _ | .sentinel => false

/-- A command of unit F (spec/00_scope.md R12). -/
def isFramer (i : Instr) : Bool :=
  match i with
  | .fclr | .fpush _ | .fframe _ | .fframee | .fread | .flen => true
  | .nop | .ginit | .gupd _ | .gread | .stat
  | .pktStatus _ _ _ | .pktBrightness _ _ | .pktMonitor _ _ _ _ | .pktPid _ _ _ _ _ _ | .sentinel => false

/-- The operands of the GUPDs among some instructions, in order. -/
def gupdOperands (is : List Instr) : List Byte :=
  is.filterMap fun i => match i with
    | .gupd d => some d
    | _ => none

/-- A run that also collects what its FREADs responded: those bytes, and the state it ends in. -/
def runCollecting (is : List Instr) (s : State) : Option (List Byte × State) :=
  match is with
  | [] => some ([], s)
  | i :: rest =>
    match exec i s with
    | .next t =>
      (runCollecting rest t).map fun r => ((if i = .fread then t.rsp.drop s.rsp.length else []) ++ r.1, r.2)
    | .fault _ => none
    | .refused _ => none

/-- R36 item 7's sequence: the GUPD operands since the last GINIT or reset, after some host events. -/
def absorbed (d : List Byte) (es : List HostEvent) : List Byte :=
  match es with
  | [] => d
  | e :: rest =>
    match decode e with
    | .reset => absorbed [] rest
    | .decoded (.instr .ginit) => absorbed [] rest
    | .decoded (.instr (.gupd x)) => absorbed (d ++ [x]) rest
    | _ => absorbed d rest

/-- R200's table for decoded instructions: the one cause a command records, in R203's order, if any. ILLEGAL is
decoding's (R75), and a packet row that does not fit records OVERFLOW through its FPUSHes (`fits`). -/
def faultCause (i : Instr) (s : State) : Option Cause :=
  match i with
  | .fpush _ =>
    if s.f_phase = .emit then some .phase
    else if s.f_len.toNat = block.bufBytes then some .overflow
    else none
  | .fframe idx =>
    if s.f_phase = .emit then some .phase
    else if s.f_len.toNat < idx.toNat then some .badIndex
    else none
  | .fframee => if s.f_phase = .emit then some .phase else none
  | .fread =>
    if s.f_phase = .accum then some .phase
    else if s.f_rp.toNat = s.f_len.toNat + 1 then some .underflow
    else none
  | .nop | .ginit | .gupd _ | .gread | .fclr | .flen | .stat
  | .pktStatus _ _ _ | .pktBrightness _ _ | .pktMonitor _ _ _ _ | .pktPid _ _ _ _ _ _ | .sentinel => none

/-- The events of a run (R238): command words interleaved with resets, ending with its last command. Packet rows are no
events of it. -/
def isRun (es : List HostEvent) : Bool :=
  es.all (fun e => match e with
    | .word _ | .rst => true
    | .packet _ => false) &&
  es.getLast? != some .rst

/-- The launch state `reset(Config)` (R231, R238), with the run's events for the host to present. -/
def launch (es : List HostEvent) : State :=
  setEvents es State.reset

/-- n steps, stopping at a stop; `Host.Core.run core` in the machine's own types (`runSteps_eq_run`). -/
def runSteps (n : Nat) (s : State) : Host.Outcome State Fault Refusal :=
  match n with
  | 0 => .next s
  | n + 1 => andThen (step s) (runSteps n)

/-- A run from its launch state to the state after its last command (R238). -/
def runFromReset (es : List HostEvent) : Host.Outcome State Fault Refusal :=
  runSteps es.length (launch es)

/-- The observation of a run: the response bytes in order, and the final state (R238). -/
def observation (es : List HostEvent) : Option (List Byte × State) :=
  match runFromReset es with
  | .next t => some (t.rsp, t)
  | .fault _ => none
  | .refused _ => none

/-- The step from this state raises a fault (R200, R201): its word is illegal, the table gives its command a cause, or
it is a packet row whose FPUSHes overflow; whether or not a fault is recorded already. -/
def raisesFault (s : State) : Bool :=
  match fetch s with
  | (.decoded (.instr i), _) => (faultCause i s).isSome || !fits block i
  | (.decoded (.illegal _), _) => true
  | (.decoded .unknownPacket, _) | (.reset, _) | (.idle, _) => false

/-- Some of the next n steps raises a fault. -/
def faultRaised (n : Nat) (s : State) : Bool :=
  match n with
  | 0 => false
  | n + 1 =>
    raisesFault s ||
      match step s with
      | .next t => faultRaised n t
      | .fault _ | .refused _ => false

/-- Among the next n steps there is a last one that raises a fault, and a reset after it (R238). -/
def resetAfterLastFault (n : Nat) (s : State) : Bool :=
  match n with
  | 0 => false
  | n + 1 =>
    match step s with
    | .next t =>
      (raisesFault s && !faultRaised n t && (t.cmd.take n).contains .rst) || resetAfterLastFault n t
    | .fault _ | .refused _ => false

/-- "No fault recorded", of a run (R201, R238): `fault = 0` in the final state, with no reset after the last fault. -/
def NoFaultRecorded (es : List HostEvent) : Prop :=
  ∃ t, runFromReset es = .next t ∧ t.fault = false ∧ resetAfterLastFault es.length (launch es) = false

/-- What follows the last reset of some events; all of them where there is none (R238: a claim must "state which commands
come after the last reset"). -/
def afterLastReset (es : List HostEvent) : List HostEvent :=
  match es with
  | [] => []
  | e :: rest => if rest.contains .rst then afterLastReset rest else if e = .rst then rest else e :: rest

/-- Every word of format-N opcode `op` whose operand byte is not 0x00 records ILLEGAL, changes nothing else, and
responds 0x00 exactly if `responds` (R71, R76, R202). -/
def NonzeroOperandIsIllegal (op : Byte) (responds : Bool) : Prop :=
  ∀ (s : State) (arg : Byte) (rest : List HostEvent), arg ≠ 0x00 → s.cmd = .word (wordOf op arg) :: rest →
    step s = .next { s with
      cmd := rest
      fault := true
      cause := if s.fault then s.cause else .illegal
      rsp := if responds then s.rsp ++ [0x00] else s.rsp }

/-- The invariant of R36 at configuration c, items 1 to 6, with the canonical form of `f_buf`. Item 7 is about a history (`absorbed`). -/
structure InvAt (c : Config) (s : State) : Prop where
  /-- `f_buf` is canonical. -/
  bufWf : s.f_buf.wf = true
  /-- `f_buf` has no index at or above `BUF_BYTES` (R24). -/
  bufBelow : s.f_buf.below c.bufBytes = true
  /-- Item 1. -/
  lenBound : s.f_len.toNat ≤ c.bufBytes
  /-- Items 2 and 3, with `b = f_buf[0:f_len]`. -/
  frameBytes : ∃ b, s.f_buf.firstBytes s.f_len.toNat = some b ∧
    crcFinal c.profile s.f_acc = crc c.profile b ∧
    (s.f_phase = .emit → s.f_idx.toNat ≤ s.f_len.toNat ∧ s.f_rp.toNat ≤ s.f_len.toNat + 1 ∧
      s.f_chk = crc c.profile b)
  /-- Item 4. -/
  accumPointer : s.f_phase = .accum → s.f_rp = 0
  /-- Items 5 and 6: `Cause` has no codes 6 and 7. -/
  faultCauseAgree : s.fault = false ↔ s.cause = .none

/-- The invariant at this machine's configuration. -/
abbrev Inv (s : State) : Prop := InvAt block s

end Sys2Proof.Machine
end

