-- ==== Sys2Proof/Certificates/Slice0/Obligations.lean ====
section
/-! DEFINITION. What is claimed of the machine, one definition per statement; each docstring names the rule of spec/ it
formalises. -/

open Sys2Proof Sys2Proof.Machine

/-! ## Decoding and stepping -/

/-- spec/95_test_vectors.md section 2.5 and spec/43_packet_formats.md R181 to R184, R188: words and packet rows written
out from the spec decode to what they stand for. -/
def Obligations.SpecWordsDecode : Prop :=
  decodeWord 0x0000 = .instr .nop ∧ decodeWord 0x0001 = .illegal 0x00 ∧ decodeWord 0x10FF = .illegal 0x10 ∧
  decodeWord 0x1131 = .instr (.gupd 0x31) ∧ decodeWord 0x1200 = .instr .gread ∧
  decodeWord 0x1280 = .illegal 0x12 ∧ decodeWord 0x211F = .instr (.fpush 0x1F) ∧
  decodeWord 0x22FF = .instr (.fframe 0xFF) ∧ decodeWord 0x2300 = .instr .fframee ∧
  decodeWord 0x3000 = .instr .stat ∧ decodeWord 0x4000 = .illegal 0x40 ∧
  decodePacket [0x1F, 0x94, 0xF0, 0x00] = .instr (.pktStatus 0x94 0xF0 0x00) ∧
  decodePacket [0xAA, 0xEA, 0x42] = .instr (.pktBrightness 0xEA [0x42]) ∧
  decodePacket [0xAA, 0x41, 0x42, 0x43] = .instr (.pktBrightness 0x41 [0x42, 0x43]) ∧
  decodePacket [0xAB, 0x32, 0x10, 0x20, 0x30] = .instr (.pktMonitor 0x32 0x10 0x20 0x30) ∧
  decodePacket [0xAC, 0x9B, 0x11, 0x22, 0xDE, 0x33, 0x44] = .instr (.pktPid 0x9B 0x11 0x22 0xDE 0x33 0x44) ∧
  decodePacket [0xEE, 0x00] = .instr .sentinel

/-- spec/30_encoding.md sections 1 and 2, spec/43_packet_formats.md section 1: no bit of an encoding is dropped. -/
def Obligations.DecodeInvertsEncode : Prop :=
  ∀ i : Instr, decode (encode i) = .decoded (.instr i)

/-- spec/30_encoding.md sections 1 to 3, spec/43_packet_formats.md section 1: an instruction has one encoding. -/
def Obligations.EncodeInvertsDecode : Prop :=
  ∀ (e : HostEvent) (i : Instr), decode e = .decoded (.instr i) → encode i = e

/-- R74: the command words, how many there are, and which opcodes respond. -/
def Obligations.CommandWordTable : Prop :=
  (∀ w, decodeWord w = .instr .nop ↔ w = 0x0000) ∧
  (∀ w, decodeWord w = .instr .ginit ↔ w = 0x1000) ∧
  (∀ w d, decodeWord w = .instr (.gupd d) ↔ w = 0x1100 + d.setWidth 16) ∧
  (∀ w, decodeWord w = .instr .gread ↔ w = 0x1200) ∧
  (∀ w, decodeWord w = .instr .fclr ↔ w = 0x2000) ∧
  (∀ w d, decodeWord w = .instr (.fpush d) ↔ w = 0x2100 + d.setWidth 16) ∧
  (∀ w i, decodeWord w = .instr (.fframe i) ↔ w = 0x2200 + i.setWidth 16) ∧
  (∀ w, decodeWord w = .instr .fframee ↔ w = 0x2300) ∧
  (∀ w, decodeWord w = .instr .fread ↔ w = 0x2400) ∧
  (∀ w, decodeWord w = .instr .flen ↔ w = 0x2500) ∧
  (∀ w, decodeWord w = .instr .stat ↔ w = 0x3000) ∧
  (∀ w i, decodeWord w = .instr i → isCommand i = true) ∧
  ((List.range 65536).countP fun w => decodeWord (BitVec.ofNat 16 w) ≠ .illegal (opOf (BitVec.ofNat 16 w))) = 776 ∧
  (∀ op, isRead op = true ↔ op ∈ ([0x12, 0x24, 0x25, 0x30] : List Byte))

/-- R76: the illegal words, and all that one of them does. -/
def Obligations.IllegalWordsRecordIllegal : Prop :=
  (∀ (s : State) (w : Word16) (rest : List HostEvent), s.cmd = .word w :: rest →
    (opOf w ∉ ([0x00, 0x10, 0x11, 0x12, 0x20, 0x21, 0x22, 0x23, 0x24, 0x25, 0x30] : List Byte) ∨
      (opOf w ∈ ([0x00, 0x10, 0x12, 0x20, 0x23, 0x24, 0x25, 0x30] : List Byte) ∧ argOf w ≠ 0x00)) →
    step s = .next { s with
      cmd := rest
      fault := true
      cause := if s.fault then s.cause else .illegal
      rsp := if opOf w ∈ ([0x12, 0x24, 0x25, 0x30] : List Byte) then s.rsp ++ [0x00] else s.rsp }) ∧
  ((List.range 65536).countP fun w => decodeWord (BitVec.ofNat 16 w) = .illegal (opOf (BitVec.ofNat 16 w))) =
    245 * 256 + 8 * 255

/-- R53: on a byte carrier the op byte goes first. -/
def Obligations.CarrierSendsOpcodeFirst : Prop :=
  ∀ w : Word16, toCarrier w = [w.extractLsb' 8 8, w.extractLsb' 0 8] ∧ ofCarrier (toCarrier w) = some w

/-- spec/10_state.md R21, R22, R34, spec/60_exceptions.md R213: a step takes the host's next event and executes what it
decodes to; with none pending nothing changes (the model's choice, log entry 3). -/
def Obligations.StepRunsDecodedInstruction : Prop :=
  (∀ (s : State) (e : HostEvent) (rest : List HostEvent) (i : Instr), s.cmd = e :: rest →
    decode e = .decoded (.instr i) → step s = exec i { s with cmd := rest }) ∧
  (∀ (s : State) (i : Instr), step { s with cmd := encode i :: s.cmd } = exec i s) ∧
  (∀ s : State, s.cmd = [] → step s = .next s)

/-- spec/43_packet_formats.md R187, spec/93_implementation_defined.md U16: bytes that are no packet row are refused by
name (the model's reading, log entry 7). -/
def Obligations.UnknownPacketIsRefused : Prop :=
  ∀ (s : State) (bytes : List Byte) (rest : List HostEvent), s.cmd = .packet bytes :: rest →
    (∀ i, encode i ≠ .packet bytes) → step s = .refused .unknownPacket

/-- spec/30_encoding.md section 4 (R79): a command's line assembles to it, with or without a comment. -/
def Obligations.AssemblerReadsItsLines : Prop :=
  ∀ (i : Instr) (line comment : List Char), asmLine i = some line →
    assembleLine line = .ok [i] ∧ assembleLine (line ++ ' ' :: ';' :: comment) = .ok [i]

/-- spec/10_state.md R21, R35: a step takes the configuration; this machine's `exec` and `step` are those at `block`; and a
step of one command word changes no more of the ports than the byte it returns, which it returns exactly for an opcode of
`READS`. -/
def Obligations.StepTakesConfiguration : Prop :=
  (∀ (i : Instr) (s : State), execWith block i s = exec i s) ∧
  (∀ s : State, stepWith block s = step s) ∧
  (∀ (c : Config) (s t : State) (w : Word16) (r : Option Byte), commandStep c s w = some (t, r) →
    t.cmd = s.cmd ∧ t.rsp = s.rsp ++ r.toList ∧ r.isSome = isRead (opOf w))

/-! ## The configuration, the CRC and the framing function -/

/-- spec/00_scope.md section 3 (R5): the parameters of the table as fields of the configuration, this machine's values,
and the lower bound of `BUF_BYTES` as the longest pre-checksum buffer with N = 1 for brightness. -/
def Obligations.ConfigurationParameters : Prop :=
  (∀ c : Config, c.crcWidth = 8 ∧ c.commandWidth = 16 ∧ c.responseWidth = 8 ∧ c.indexWidth = 8 ∧
    6 ≤ c.bufBytes ∧ c.bufBytes ≤ 255) ∧
  block.profile = { poly := 0x1D, init := 0xFF, refin := true, refout := true, xorout := 0x00 } ∧
  BitVec block.crcWidth = Byte ∧ BitVec block.commandWidth = Word16 ∧ BitVec block.responseWidth = Byte ∧
  BitVec block.indexWidth = Byte ∧
  (∀ i b, preChecksum i = some b → (∀ c r, i = .pktBrightness c r → r.length = 1) → b.length ≤ 6) ∧ (∃ i b, preChecksum i = some b ∧ b.length = 6)

/-- R100. -/
def Obligations.ReflectReversesBits : Prop :=
  (∀ (x : Byte) (k : Nat), k < 8 → (refl8 x).getLsbD k = x.getLsbD (7 - k)) ∧
  refl8 0x1D = 0xB8 ∧ refl8 0x01 = 0x80 ∧ refl8 0xFF = 0xFF

/-- R104: the profile of this machine and its check value. -/
def Obligations.ProfileAndCheckValue : Prop :=
  block.profile = { poly := 0x1D, init := 0xFF, refin := true, refout := true, xorout := 0x00 } ∧
  crc block.profile [0x31, 0x32, 0x33, 0x34, 0x35, 0x36, 0x37, 0x38, 0x39] = 0x97

/-- R105: the reflected form and the table give the same values. -/
def Obligations.ReflectedFormAgrees : Prop :=
  (∀ p : Profile, p.refin = true → p.refout = true →
    (∀ s d, crcStepR p s d = refl8 (crcStep p (refl8 s) d)) ∧ ∀ b, crcR p b = crc p b) ∧
  refl8 profileDoc.poly = 0xB8 ∧
  (∀ s d : Byte, crcTable[(s ^^^ d).toNat]? = some (crcStepR profileDoc s d))

/-- R109: the empty sequence, the check value, the residue, and a packet for which the residue does not hold. -/
def Obligations.CrcResidue : Prop :=
  crc profileDoc [] = 0xFF ∧
  crc profileDoc [0x31, 0x32, 0x33, 0x34, 0x35, 0x36, 0x37, 0x38, 0x39] = 0x97 ∧
  (∀ b, crc profileDoc (b ++ [crc profileDoc b]) = 0x00) ∧
  frame profileDoc [0x1F, 0xF0, 0x00] 1 = some [0x1F, 0x94, 0xF0, 0x00] ∧
  crc profileDoc [0x1F, 0x94, 0xF0, 0x00] = 0x27

/-- spec/90_conflicts.md C1, spec/95_test_vectors.md section 2.4: under the alternative profile the source's check value
holds. -/
def Obligations.AlternativeProfileValues : Prop :=
  crc profile0x2F [0x31, 0x32, 0x33, 0x34, 0x35, 0x36, 0x37, 0x38, 0x39] = 0xDF ∧ crc profile0x2F [] = 0x00 ∧
  crc profile0x2F [0x1F, 0xF0, 0x00] = 0xD0

/-- R131: the properties of the framing function, for every profile; and R130's domain. -/
def Obligations.FrameFunctionProperties : Prop :=
  (∀ (p : Profile) (b : List Byte) (i : Nat), i ≤ b.length → ∃ f, frame p b i = some f ∧
    f.length = b.length + 1 ∧ f.take i ++ f.drop (i + 1) = b ∧ f[i]? = some (crc p b)) ∧
  (∀ (p : Profile) (b : List Byte) (i : Nat), b.length < i → frame p b i = none) ∧
  frame profileDoc [0x1F, 0xF0, 0x00] 1 = some [0x1F, 0x94, 0xF0, 0x00] ∧
  frame profileDoc [] 0 = some [0xFF]

/-- R132: `OutByte` by cases, and that it is the framed sequence's byte once the checksum is latched. -/
def Obligations.OutByteReadsFrame : Prop :=
  ∀ (s : State) (b : List Byte), s.f_buf.firstBytes s.f_len.toNat = some b → s.f_idx.toNat ≤ s.f_len.toNat →
    (∀ k, k ≤ s.f_len.toNat → outByte s k =
      if k < s.f_idx.toNat then b[k]? else if k = s.f_idx.toNat then some s.f_chk else b[k - 1]?) ∧
    (s.f_chk = crc block.profile b → ∀ f, frame block.profile b s.f_idx.toNat = some f →
      ∀ k, k ≤ s.f_len.toNat → outByte s k = f[k]?)

/-! ## Unit G -/

/-- R106. -/
def Obligations.GinitCommand : Prop :=
  decodeWord 0x1000 = .instr .ginit ∧
  (∀ s : State, exec .ginit s = .next { s with g_acc := block.profile.init }) ∧
  (∀ s t : State, exec .ginit s = .next t → statByte block t = statByte block s) ∧
  NonzeroOperandIsIllegal 0x10 false ∧
  exec .ginit State.reset = .next State.reset ∧
  (∀ s : State, s.g_acc = 0xFF →
    exec (.gupd 0x00) s = .next { s with g_acc := 0xC4 } ∧
    runInstrs [.gupd 0x00, .ginit, .gread] s = .next { s with rsp := s.rsp ++ [0xFF] })

/-- R107. -/
def Obligations.GupdCommand : Prop :=
  (∀ d : Byte, decodeWord (0x1100 ||| d.setWidth 16) = .instr (.gupd d)) ∧
  (∀ (s : State) (d : Byte), exec (.gupd d) s = .next { s with g_acc := crcStep block.profile s.g_acc d }) ∧
  crcStep block.profile 0xFF 0x00 = 0xC4 ∧ crcStep block.profile 0xFF 0xFF = 0x00 ∧
  crcFinal block.profile 0x00 = 0x00 ∧
  (∀ s : State, runInstrs [.ginit, .gupd 0x1F, .gread] s =
    .next { s with g_acc := 0x53, rsp := s.rsp ++ [0xCA] })

/-- R108. -/
def Obligations.GreadCommand : Prop :=
  decodeWord 0x1200 = .instr .gread ∧
  (∀ s : State, exec .gread s = .next { s with rsp := s.rsp ++ [crcFinal block.profile s.g_acc] }) ∧
  NonzeroOperandIsIllegal 0x12 true ∧
  (∀ s : State, runInstrs [.ginit, .gread] s =
    .next { s with g_acc := block.profile.init, rsp := s.rsp ++ [crc block.profile []] }) ∧
  crc block.profile [] = 0xFF ∧
  (∀ s : State, ∃ t, runInstrs [.ginit, .gupd 0x31, .gupd 0x32, .gupd 0x33, .gupd 0x34, .gupd 0x35, .gupd 0x36,
    .gupd 0x37, .gupd 0x38, .gupd 0x39, .gread] s = .next t ∧ t.rsp = s.rsp ++ [0x97])

/-- R110: the generator's answer is the CRC of the bytes absorbed, from any state; and with any other commands
interleaved, from any state that meets the invariant, whether or not a fault has been recorded. -/
def Obligations.GeneratorStreamLaw : Prop :=
  (∀ (s : State) (b : List Byte), ∃ t, runInstrs (pseudoCrc8 b) s = .next t ∧
    t.rsp = s.rsp ++ [crc block.profile b]) ∧
  (∀ (s : State) (is : List Instr), Inv s → (∀ i ∈ is, isCommand i = true ∧ i ≠ .ginit) →
    ∃ t u, runInstrs (.ginit :: is) s = .next t ∧ exec .gread t = .next u ∧
      u.rsp = t.rsp ++ [crc block.profile (gupdOperands is)])

/-! ## Unit F -/

/-- R133. -/
def Obligations.FclrCommand : Prop :=
  decodeWord 0x2000 = .instr .fclr ∧
  (∀ s : State, exec .fclr s = .next { s with
    f_len := 0, f_acc := block.profile.init, f_phase := .accum, f_idx := 0, f_chk := 0x00, f_rp := 0 }) ∧
  (∀ s t : State, exec .fclr s = .next t → phaseBit t = false ∧ doneBit t = false ∧ fullBit block t = false) ∧
  (∀ s : State, s.fault = false → s.cause = .none →
    ∃ t, runInstrs [.fclr, .stat, .flen] s = .next t ∧ t.rsp = s.rsp ++ [0x00, 0x00]) ∧
  NonzeroOperandIsIllegal 0x20 false

/-- R134: the two faults, and the push, which stores at index `f_len` and nowhere else. -/
def Obligations.FpushCommand : Prop :=
  (∀ d : Byte, decodeWord (0x2100 ||| d.setWidth 16) = .instr (.fpush d)) ∧
  (∀ (s : State) (d : Byte), s.f_phase = .emit → exec (.fpush d) s =
    .next { s with fault := true, cause := if s.fault then s.cause else .phase }) ∧
  (∀ (s : State) (d : Byte), s.f_phase = .accum → s.f_len.toNat = block.bufBytes → exec (.fpush d) s =
    .next { s with fault := true, cause := if s.fault then s.cause else .overflow }) ∧
  (∀ (s : State) (d : Byte), s.f_phase = .accum → s.f_len.toNat < block.bufBytes →
    ∃ t, exec (.fpush d) s = .next t ∧
      t = { s with f_buf := t.f_buf, f_len := s.f_len + 1, f_acc := crcStep block.profile s.f_acc d } ∧
      t.f_len.toNat = s.f_len.toNat + 1 ∧
      t.f_buf.read (pushIndex s) = some d ∧
      (∀ a, a ≠ pushIndex s → t.f_buf.read a = s.f_buf.read a) ∧
      (fullBit block t = true ↔ s.f_len.toNat + 1 = block.bufBytes)) ∧
  (∀ s : State, ∃ t, runInstrs [.fclr, .fpush 0x1F] s = .next t ∧ t.f_len = 1 ∧ t.f_buf.read 0 = some 0x1F ∧
    t.f_acc = 0x53)

/-- R135. -/
def Obligations.FframeCommand : Prop :=
  (∀ i : Byte, decodeWord (0x2200 ||| i.setWidth 16) = .instr (.fframe i)) ∧
  (∀ (s : State) (i : Byte), s.f_phase = .emit → exec (.fframe i) s =
    .next { s with fault := true, cause := if s.fault then s.cause else .phase }) ∧
  (∀ (s : State) (i : Byte), s.f_phase = .accum → s.f_len.toNat < i.toNat → exec (.fframe i) s =
    .next { s with fault := true, cause := if s.fault then s.cause else .badIndex }) ∧
  (∀ (s : State) (i : Byte), s.f_phase = .accum → i.toNat ≤ s.f_len.toNat → exec (.fframe i) s =
    .next { s with f_chk := crcFinal block.profile s.f_acc, f_idx := i, f_rp := 0, f_phase := .emit }) ∧
  (∀ (s t : State) (i : Byte), s.f_phase = .accum → i.toNat ≤ s.f_len.toNat → exec (.fframe i) s = .next t →
    phaseBit t = true ∧ doneBit t = false) ∧
  (∀ s : State, ∃ t, runInstrs [.fclr, .fpush 0x1F, .fpush 0xF0, .fpush 0x00, .fframe 0x01] s = .next t ∧
    t.f_chk = 0x94 ∧ t.f_idx = 1) ∧
  (∀ s : State, ∃ t, runInstrs [.fclr, .fframe 0x00, .fread] s = .next t ∧ t.rsp = s.rsp ++ [0xFF])

/-- R136: FFRAMEE, and that it is `FFRAME f_len` in every state. -/
def Obligations.FframeeCommand : Prop :=
  decodeWord 0x2300 = .instr .fframee ∧
  NonzeroOperandIsIllegal 0x23 false ∧
  (∀ s : State, s.f_phase = .emit → exec .fframee s =
    .next { s with fault := true, cause := if s.fault then s.cause else .phase }) ∧
  (∀ s : State, s.f_phase = .accum → exec .fframee s =
    .next { s with f_chk := crcFinal block.profile s.f_acc, f_idx := s.f_len, f_rp := 0, f_phase := .emit }) ∧
  (∀ s : State, exec .fframee s = exec (.fframe s.f_len) s) ∧
  (∀ s : State, ∃ t, runInstrs [.fclr, .fpush 0xAA, .fframee, .fread, .fread] s = .next t ∧
    t.rsp = s.rsp ++ [0xAA, 0xCE])

/-- R137: the two faults, and the read, which answers `OutByte(f_rp)` and advances. -/
def Obligations.FreadCommand : Prop :=
  decodeWord 0x2400 = .instr .fread ∧
  NonzeroOperandIsIllegal 0x24 true ∧
  (∀ s : State, s.f_phase = .accum → exec .fread s = .next { s with
    fault := true, cause := if s.fault then s.cause else .phase, rsp := s.rsp ++ [0x00] }) ∧
  (∀ s : State, s.f_phase = .emit → s.f_rp.toNat = s.f_len.toNat + 1 → exec .fread s = .next { s with
    fault := true, cause := if s.fault then s.cause else .underflow, rsp := s.rsp ++ [0x00] }) ∧
  (∀ (s : State) (b : List Byte), s.f_phase = .emit → s.f_buf.firstBytes s.f_len.toNat = some b →
    s.f_idx.toNat ≤ s.f_len.toNat → s.f_rp.toNat ≤ s.f_len.toNat →
    ∃ v t, outByte s s.f_rp.toNat = some v ∧ exec .fread s = .next t ∧
      t = { s with rsp := s.rsp ++ [v], f_rp := s.f_rp + 1 } ∧
      t.f_rp.toNat = s.f_rp.toNat + 1 ∧ (doneBit t = true ↔ s.f_rp.toNat = s.f_len.toNat)) ∧
  (∀ s : State, ∃ t, runInstrs [.fclr, .fpush 0x1F, .fpush 0xF0, .fpush 0x00, .fframe 0x01, .fread, .fread, .fread,
    .fread] s = .next t ∧ t.rsp = s.rsp ++ [0x1F, 0x94, 0xF0, 0x00])

/-- R138. -/
def Obligations.FlenCommand : Prop :=
  decodeWord 0x2500 = .instr .flen ∧
  NonzeroOperandIsIllegal 0x25 true ∧
  (∀ s : State, exec .flen s = .next { s with rsp := s.rsp ++ [s.f_len] }) ∧
  (∀ s : State, ∃ t, runInstrs [.fclr, .fpush 0x31, .fpush 0x32, .fframee, .flen] s = .next t ∧
    t.rsp = s.rsp ++ [0x02])

/-- R139: the framing law, from every fault-free state, with other units' commands interleaved. -/
def Obligations.FramingLaw : Prop :=
  (∀ (s : State) (is : List Instr) (b : List Byte) (i : Byte), s.fault = false → b.length ≤ block.bufBytes →
    i.toNat ≤ b.length → (∀ j ∈ is, isCommand j = true) → is.filter isFramer = pseudoFrame b i →
    ∃ t f, runCollecting is s = some (f, t) ∧ frame block.profile b i.toNat = some f ∧
      t.f_phase = .emit ∧ t.f_rp.toNat = b.length + 1 ∧ doneBit t = true ∧ t.fault = false) ∧
  (∀ (s : State) (is : List Instr) (b : List Byte), s.fault = false → b.length ≤ block.bufBytes →
    (∀ j ∈ is, isCommand j = true) → is.filter isFramer = pseudoFramee b →
    ∃ t f, runCollecting is s = some (f, t) ∧ frame block.profile b b.length = some f ∧
      t.f_phase = .emit ∧ t.f_rp.toNat = b.length + 1 ∧ doneBit t = true ∧ t.fault = false)

/-- R141: two states that differ only in the framer's state cannot be told apart after FCLR, whatever is executed, but
by `f_buf` itself. -/
def Obligations.FramesAreIndependent : Prop :=
  ∀ (s u : State) (is : List Instr),
    u = { s with f_buf := u.f_buf, f_len := u.f_len, f_acc := u.f_acc, f_phase := u.f_phase, f_idx := u.f_idx,
                 f_chk := u.f_chk, f_rp := u.f_rp } →
    ∀ t, runInstrs (.fclr :: is) s = .next t →
      ∃ v, runInstrs (.fclr :: is) u = .next v ∧ v = { t with f_buf := v.f_buf }

/-! ## Block control and STAT -/

/-- R170. -/
def Obligations.NopCommand : Prop :=
  decodeWord 0x0000 = .instr .nop ∧ (∀ s : State, exec .nop s = .next s) ∧ NonzeroOperandIsIllegal 0x00 false

/-- R33: STAT bit by bit, and after reset. -/
def Obligations.StatusRegisterBits : Prop :=
  (∀ s : State,
    ((statByte block s).getLsbD 0 = true ↔ s.f_phase = .emit) ∧
    (statByte block s).getLsbD 1 = s.fault ∧
    (statByte block s).extractLsb' 2 3 = causeCode s.cause ∧
    ((statByte block s).getLsbD 5 = true ↔ s.f_phase = .emit ∧ s.f_rp.toNat = s.f_len.toNat + 1) ∧
    ((statByte block s).getLsbD 6 = true ↔ s.f_len.toNat = block.bufBytes) ∧
    (statByte block s).getLsbD 7 = false) ∧
  statByte block State.reset = 0x00

/-- R171: STAT responds the status byte and writes nothing; the example of program P4. -/
def Obligations.StatCommand : Prop :=
  decodeWord 0x3000 = .instr .stat ∧
  NonzeroOperandIsIllegal 0x30 true ∧
  (∀ s : State, exec .stat s = .next { s with rsp := s.rsp ++ [statByte block s] }) ∧
  statByte block State.reset = 0x00 ∧
  (∀ s : State, s.f_phase = .emit → s.fault = true → s.cause = .phase → s.f_rp.toNat = s.f_len.toNat + 1 →
    s.f_len.toNat < block.bufBytes → statByte block s = 0x33)

/-! ## Faults -/

/-- spec/60_exceptions.md sections 1 and 2 (R200, R203): the causes, by the conditions under which a command records each;
and no others. What is said of packet rows, that one which fits leaves the fault record and one which does not fit `f_buf`
records the OVERFLOW of its FPUSHes, is the model's choice (log entry 5). -/
def Obligations.FaultTable : Prop :=
  (∀ (i : Instr) (s : State) (c : Cause), faultCause i s = some c → exec i s = .next { s with
    fault := true
    cause := if s.fault then s.cause else c
    rsp := if i = .fread then s.rsp ++ [0x00] else s.rsp }) ∧
  (∀ (i : Instr) (s t : State), faultCause i s = none → fits block i = true → exec i s = .next t →
    t.fault = s.fault ∧ t.cause = s.cause) ∧
  (∀ (i : Instr) (s : State), fits block i = false → ∃ t, exec i s = .next t ∧
    t.fault = true ∧ t.cause = if s.fault then s.cause else .overflow) ∧
  (∀ (s : State) (w : Word16) (rest : List HostEvent), s.cmd = .word w :: rest → (∀ i, decodeWord w ≠ .instr i) →
    ∃ t, step s = .next t ∧ t.fault = true ∧ t.cause = if s.fault then s.cause else .illegal) ∧
  causeCode .none = 0 ∧ causeCode .illegal = 1 ∧ causeCode .overflow = 2 ∧ causeCode .badIndex = 3 ∧
  causeCode .phase = 4 ∧ causeCode .underflow = 5 ∧ (∀ c : Cause, causeCode c ≠ 6 ∧ causeCode c ≠ 7)

/-- R201: sticky, the first cause kept, and no other effect on what later instructions do (STAT's answer apart). -/
def Obligations.FaultIsSticky : Prop :=
  (∀ s t : State, step s = .next t → s.fault = true → (∀ rest, s.cmd ≠ .rst :: rest) →
    t.fault = true ∧ t.cause = s.cause) ∧
  (∀ (s : State) (code : Cause), raiseFault code s =
    { s with fault := true, cause := if s.fault = false then code else s.cause }) ∧
  (∀ (i : Instr) (s t : State) (f : Bool) (c : Cause), i ≠ .stat → exec i s = .next t →
    ∃ u, exec i { s with fault := f, cause := c } = .next u ∧ u = { t with fault := u.fault, cause := u.cause })

/-- R202: what a faulting command does, and that the number of responses depends on the word's opcode alone. -/
def Obligations.ResponsesFollowOpcodes : Prop :=
  (∀ (i : Instr) (s : State) (c : Cause), faultCause i s = some c →
    ∃ t, exec i s = .next t ∧ t = { s with fault := t.fault, cause := t.cause, rsp := t.rsp } ∧
      (i = .fread → t.rsp = s.rsp ++ [0x00]) ∧ (i ≠ .fread → t.rsp = s.rsp)) ∧
  (∀ (s : State) (w : Word16) (rest : List HostEvent), s.cmd = .word w :: rest →
    decodeWord w = .illegal (opOf w) →
    ∃ t, step s = .next t ∧ t = { s with cmd := rest, fault := t.fault, cause := t.cause, rsp := t.rsp } ∧
      t.rsp = s.rsp ++ (if opOf w ∈ ([0x12, 0x24, 0x25, 0x30] : List Byte) then [0x00] else [])) ∧
  (∀ (s t : State) (w : Word16) (rest : List HostEvent), s.cmd = .word w :: rest → step s = .next t →
    ∃ bytes, t.rsp = s.rsp ++ bytes ∧
      bytes.length = if opOf w ∈ ([0x12, 0x24, 0x25, 0x30] : List Byte) then 1 else 0)

/-! ## Reset and the invariant -/

/-- spec/70_reset_and_hazards.md section 1 (R230): every element at its reset value, from any state; what the block
answers then; and that nothing else clears `fault`. That `rst` keeps `cmd`, `rsp` and `fb`, and that they are empty at
reset, is the model's choice (log entry 3). -/
def Obligations.ResetState : Prop :=
  (State.reset.g_acc = 0xFF ∧ State.reset.f_len = 0 ∧ State.reset.f_acc = 0xFF ∧ State.reset.f_phase = .accum ∧
    State.reset.f_idx = 0 ∧ State.reset.f_chk = 0x00 ∧ State.reset.f_rp = 0 ∧ State.reset.fault = false ∧
    State.reset.cause = .none) ∧
  (∀ (s : State) (rest : List HostEvent), s.cmd = .rst :: rest → ∃ t, step s = .next t ∧
    t = { State.reset with f_buf := t.f_buf, cmd := rest, rsp := s.rsp, fb := s.fb }) ∧
  exec .stat State.reset = .next { State.reset with rsp := [0x00] } ∧
  exec .gread State.reset = .next { State.reset with rsp := [0xFF] } ∧
  exec .flen State.reset = .next { State.reset with rsp := [0x00] } ∧
  (∀ s t : State, step s = .next t → s.fault = true → t.fault = false → ∃ rest, s.cmd = .rst :: rest)

/-- spec/10_state.md section 6: the invariant holds after reset. -/
def Obligations.InvariantAtReset : Prop := Inv State.reset

/-- spec/10_state.md section 6: every step keeps the invariant. -/
def Obligations.InvariantKeptByStep : Prop :=
  ∀ s t : State, Inv s → step s = .next t → Inv t

/-- spec/10_state.md sections 1, 5 and 6: at every configuration the invariant holds after reset, and from every state that
meets it each command word completes and keeps it. -/
def Obligations.InvariantAtEveryConfiguration : Prop :=
  ∀ c : Config, InvAt c (State.resetWith c) ∧
    ∀ (s : State) (w : Word16), InvAt c s → ∃ t r, commandStep c s w = some (t, r) ∧ InvAt c t

/-- R36: every state the block reaches from reset, by any events of the host, with item 7 about the bytes absorbed. -/
def Obligations.ReachableStatesMeetInvariant : Prop :=
  ∀ (es : List HostEvent) (n : Nat) (t : State), Host.Core.run core n { State.reset with cmd := es } = .next t →
    Inv t ∧ crcFinal block.profile t.g_acc = crc block.profile (absorbed [] (es.take n))

/-- spec/70_reset_and_hazards.md R234, R236: every command completes, and so does every other host event the table
gives a meaning. -/
def Obligations.EveryEventCompletes : Prop :=
  ∀ s : State, Inv s →
    (∀ bytes rest, s.cmd = .packet bytes :: rest → decodePacket bytes ≠ .unknownPacket) → ∃ t, step s = .next t

/-! ## Runs -/

/-- spec/70_reset_and_hazards.md section 5 (R238), spec/60_exceptions.md section 1: a run of words and resets has an
observation, with one response byte for each word of a read-type opcode. That the lists of events and responses are
empty at reset is the model's choice (log entry 3). -/
def Obligations.RunsHaveObservations : Prop :=
  ∀ es : List HostEvent, isRun es = true → ∃ t, observation es = some (t.rsp, t) ∧ Inv t ∧ t.cmd = [] ∧
    t.rsp.length = es.countP fun e => match e with
      | .word w => isRead (opOf w)
      | .rst | .packet _ => false

/-- spec/70_reset_and_hazards.md section 5 (R238), spec/60_exceptions.md section 1: "no fault recorded" says that no
command of the run raised a fault; without resets `fault = 0` at the end says so, and with them it says so only of the
events after the last reset. -/
def Obligations.NoFaultRecordedMeansNoFault : Prop :=
  ∀ (es : List HostEvent) (t : State), runFromReset es = .next t →
    (NoFaultRecorded es ↔ faultRaised es.length (launch es) = false) ∧
    (.rst ∉ es → (NoFaultRecorded es ↔ t.fault = false)) ∧
    (t.fault = false ↔ faultRaised (afterLastReset es).length (launch (afterLastReset es)) = false)

/-! ## Frames and independence -/

/-- spec/10_state.md R23, R25 to R30: which instructions can change each register. What is said of `fb`, of the sentinel
and of `cmd` is the model's choice (log entries 3 and 5). -/
def Obligations.RegisterWriters : Prop :=
  ∀ (i : Instr) (s t : State), exec i s = .next t →
    (isGenerator i = false → t.g_acc = s.g_acc) ∧
    (i = .gread → t.g_acc = s.g_acc) ∧
    (isCommand i = true → (∀ d, i ≠ .fpush d) → i ≠ .fclr → t.f_len = s.f_len ∧ t.f_acc = s.f_acc) ∧
    (isCommand i = true → (∀ j, i ≠ .fframe j) → i ≠ .fframee → i ≠ .fclr →
      t.f_phase = s.f_phase ∧ t.f_idx = s.f_idx ∧ t.f_chk = s.f_chk ∧ (i ≠ .fread → t.f_rp = s.f_rp)) ∧
    (preChecksum i = none → i ≠ .sentinel → t.fb = s.fb) ∧
    (i = .sentinel → t = { s with fb := t.fb }) ∧
    t.cmd = s.cmd

/-- spec/20_memory.md R50, spec/10_state.md R24: which byte of `f_buf` an instruction can change, FPUSH only the one at
`f_len`, any other command none; and a packet row only those below its pre-checksum length, since it stands for FPUSHes
of the host (the model's choice, log entry 5). -/
def Obligations.StoresStayInPlace : Prop :=
  ∀ (i : Instr) (s t : State), exec i s = .next t →
    ((∀ d, i ≠ .fpush d) → preChecksum i = none → ∀ a, t.f_buf.read a = s.f_buf.read a) ∧
    (∀ d, i = .fpush d → ∀ a, a ≠ pushIndex s → t.f_buf.read a = s.f_buf.read a) ∧
    (∀ b, preChecksum i = some b → ∀ a, b.length ≤ a → t.f_buf.read a = s.f_buf.read a)

/-- spec/10_state.md R23, R26, spec/92_eei_decisions.md D23: no instruction outside unit G reads or writes `g_acc`, and
no command of unit G reads or writes framer state. -/
def Obligations.UnitsAreIndependent : Prop :=
  (∀ (i : Instr) (s t : State) (g : Byte), isGenerator i = false → exec i s = .next t →
    exec i { s with g_acc := g } = .next { t with g_acc := g }) ∧
  (∀ (i : Instr) (s t u : State), isGenerator i = true → exec i s = .next t →
    u = { s with f_buf := u.f_buf, f_len := u.f_len, f_acc := u.f_acc, f_phase := u.f_phase, f_idx := u.f_idx,
                 f_chk := u.f_chk, f_rp := u.f_rp } →
    exec i u = .next { u with g_acc := t.g_acc, rsp := t.rsp })

/-- R56: GREAD, FLEN and STAT answer the same byte twice and change nothing; FREAD advances. -/
def Obligations.ReadSideEffects : Prop :=
  (∀ (i : Instr) (s : State), i = .gread ∨ i = .flen ∨ i = .stat →
    ∃ v, runInstrs [i, i] s = .next { s with rsp := s.rsp ++ [v, v] }) ∧
  (∀ s t : State, exec .fread s = .next t → faultCause .fread s = none →
    ∃ v, outByte s s.f_rp.toNat = some v ∧ t = { s with rsp := s.rsp ++ [v], f_rp := s.f_rp + 1 }) ∧
  (∀ (op : Byte) (s : State), executeIllegal op s =
    { s with
      fault := true
      cause := if s.fault then s.cause else .illegal
      rsp := s.rsp ++ (if isRead op then [0x00] else []) })

/-! ## Packets -/

/-- spec/43_packet_formats.md R180 to R184, R191: each packet row completes from every state. Where its pre-checksum buffer
fits `f_buf`, `Frame(b, 1)` is what the block gives back and what the host appends to its frame buffer; where it does not,
the FPUSHes past the last byte of room record OVERFLOW, and the FREADs past the end respond 0x00 (log entry 5). -/
def Obligations.PacketRowsBuildFrames : Prop :=
  (∀ (i : Instr) (b : List Byte) (s : State), preChecksum i = some b → b.length ≤ block.bufBytes →
    ∃ t f, exec i s = .next t ∧ frame block.profile b 1 = some f ∧
      t.f_buf.firstBytes b.length = some b ∧
      t = { s with
        f_buf := t.f_buf
        f_len := BitVec.ofNat 8 b.length
        f_acc := t.f_acc
        f_phase := .emit
        f_idx := 1
        f_chk := crc block.profile b
        f_rp := BitVec.ofNat 9 (b.length + 1)
        rsp := s.rsp ++ f
        fb := s.fb ++ f } ∧
      crcFinal block.profile t.f_acc = crc block.profile b) ∧
  (∀ (i : Instr) (b : List Byte) (s : State), preChecksum i = some b → block.bufBytes < b.length →
    ∃ t f, exec i s = .next t ∧ frame block.profile (b.take block.bufBytes) 1 = some f ∧
      t.f_buf.firstBytes block.bufBytes = some (b.take block.bufBytes) ∧
      t = { s with
        f_buf := t.f_buf
        f_len := BitVec.ofNat 8 block.bufBytes
        f_acc := t.f_acc
        f_phase := .emit
        f_idx := 1
        f_chk := crc block.profile (b.take block.bufBytes)
        f_rp := BitVec.ofNat 9 (block.bufBytes + 1)
        fault := true
        cause := if s.fault then s.cause else .overflow
        rsp := s.rsp ++ f ++ List.replicate (b.length - block.bufBytes) 0x00
        fb := s.fb ++ f ++ List.replicate (b.length - block.bufBytes) 0x00 } ∧
      crcFinal block.profile t.f_acc = crc block.profile (b.take block.bufBytes))

/-- spec/43_packet_formats.md sections 1 to 3 (R181 to R184, R188, R191): building a packet of the source, or sending the
raw sentinel, adds exactly the row's own bytes to the frame buffer. That executing a row is the host's building or sending
of it, appended to `fb`, is the model's choice (log entry 5). -/
def Obligations.WellFormedRowsEmitTheirBytes : Prop :=
  ∀ (i : Instr) (bytes : List Byte) (s : State), WellFormed i = true → encode i = .packet bytes →
    ∃ t, exec i s = .next t ∧ t.fb = s.fb ++ bytes

/-- R188, decision D28: the sentinel is sent raw, and the block is not used (log entry 5). -/
def Obligations.SentinelIsRaw : Prop :=
  (∀ s : State, exec .sentinel s = .next { s with fb := s.fb ++ [0xEE, 0x00] }) ∧
  frame profileDoc [0xEE, 0x00] 1 = some [0xEE, 0xC9, 0x00]

/-- spec/43_packet_formats.md R191: `FRAME b @ 1` takes 2n + 3 commands, the four packets take 42 with N = 1 and
build the frame buffer. That executing a packet row is that `FRAME` is the model's choice (log entry 5). -/
def Obligations.FrameBufferIsBuilt : Prop :=
  (∀ (i : Instr) (b : List Byte) (s : State), preChecksum i = some b →
    ∃ t, runInstrs (pseudoFrame b 1) s = .next t ∧
      exec i s = .next { t with fb := s.fb ++ t.rsp.drop s.rsp.length }) ∧
  (∀ (b : List Byte) (i : Byte), (pseudoFrame b i).length = 2 * b.length + 3) ∧
  (∀ (r : List Byte) (m0 m1 m2 p0 p1 p2 p3 : Byte), r.length = 1 →
    (((emitterIteration block.profile r m0 m1 m2 p0 p1 p2 p3).filterMap preChecksum).map
      fun b => (pseudoFrame b 1).length).sum = 42) ∧
  (∀ (s : State) (r : List Byte) (m0 m1 m2 p0 p1 p2 p3 : Byte), r.length + 1 ≤ block.bufBytes →
    ∃ t, runInstrs (emitterIteration block.profile r m0 m1 m2 p0 p1 p2 p3) s = .next t ∧
      t.fb = s.fb ++ frameBuffer block.profile r m0 m1 m2 p0 p1 p2 p3 ∧
      t.rsp = s.rsp ++ frameBuffer block.profile r m0 m1 m2 p0 p1 p2 p3)

/-- R186 and spec/95_test_vectors.md L1-8: with N brightness bytes the frame buffer is N + 18 bytes, 19 for N = 1, the four
packets at offsets 0, 4, N + 6 and N + 11; splitting it by length gives them back, each intact. -/
def Obligations.FrameBufferSplits : Prop :=
  (∀ (p : Profile) (b0 m0 m1 m2 p0 p1 p2 p3 : Byte), (frameBuffer p [b0] m0 m1 m2 p0 p1 p2 p3).length = 19) ∧
  ∀ (p : Profile) (r : List Byte) (m0 m1 m2 p0 p1 p2 p3 : Byte),
    (frameBuffer p r m0 m1 m2 p0 p1 p2 p3).length = r.length + 18 ∧
    ∃ status brightness monitor pid : List Byte,
      frame p [0x1F, 0xF0, 0x00] 1 = some status ∧ frame p (0xAA :: r) 1 = some brightness ∧
      frame p [0xAB, m0, m1, m2] 1 = some monitor ∧ frame p [0xAC, p0, p1, 0xDE, p2, p3] 1 = some pid ∧
      frameBuffer p r m0 m1 m2 p0 p1 p2 p3 = status ++ brightness ++ monitor ++ pid ∧
      status.length = 4 ∧ brightness.length = r.length + 2 ∧ monitor.length = 5 ∧ pid.length = 7 ∧
      splitPackets r.length 4 (frameBuffer p r m0 m1 m2 p0 p1 p2 p3) = some [status, brightness, monitor, pid] ∧
      packetIntact r.length p status = true ∧ packetIntact r.length p brightness = true ∧
      packetIntact r.length p monitor = true ∧ packetIntact r.length p pid = true

/-- spec/43_packet_formats.md R187: the lengths byte 0 implies, where brightness packets have n payload bytes, and that
they are those of the rows and of their pre-checksum buffers. -/
def Obligations.PacketLengths : Prop :=
  (∀ (n : Nat) (op : Byte), packetLength n op =
    if op = 0x1F then some 4 else if op = 0xAA then some (n + 2) else if op = 0xAB then some 5
    else if op = 0xAC then some 7 else none) ∧
  (∀ (n : Nat) (op : Byte), preChecksumLength n op =
    if op = 0x1F then some 3 else if op = 0xAA then some (n + 1) else if op = 0xAB then some 4
    else if op = 0xAC then some 6 else none) ∧
  (∀ (n : Nat) (i : Instr) (b bytes : List Byte), preChecksum i = some b → encode i = .packet bytes →
    (∀ c r, i = .pktBrightness c r → r.length = n) →
    ∃ op, bytes.head? = some op ∧ b.head? = some op ∧ packetLength n op = some bytes.length ∧
      preChecksumLength n op = some b.length)

/-- spec/43_packet_formats.md R187, R189: a packet is intact exactly when it is the frame, at index 1, of its bytes
without byte 1, and has the length its byte 0 implies, where brightness packets have n payload bytes. -/
def Obligations.IntactPacketsAreFrames : Prop :=
  ∀ (n : Nat) (p : Profile) (bytes : List Byte), packetIntact n p bytes = true ↔
    ∃ op rest, packetLength n op = some bytes.length ∧ frame p (op :: rest) 1 = some bytes

/-- spec/43_packet_formats.md R188, R190: what the emitter's writes put into the frame buffer: the init phase begins with
the raw sentinel and carries the fixed packets, and precedes the loop, whose iterations each add a fresh frame buffer.
That the init phase carries each packet once, in an order and a number of writes left free, is the model's choice (log
entry 13), and so is the meaning of a packet row (log entry 5). -/
def Obligations.InitWritePrecedesLoop : Prop :=
  (initWrites.flatten = initRows ∧ initWrites.length = Config.freeInitWrites + 1 ∧
    ∃ more, initWrites.head? = some (.sentinel :: more)) ∧
  (∀ (k : Nat) (a : EmitterAct), initPhase[k]? = some a →
    if k % 2 = 0 then ∃ rows, a = .write rows else a = .padDelay Config.freePadDelay) ∧
  (∀ (s : State) (draws : List Draws), ∃ t, runInstrs (writtenRows (emitter false draws)) s = .next t ∧
    t.fb = s.fb ++ draws.flatMap drawnFrameBuffer) ∧
  (∃ status brightness monitor pid : List Byte,
    frame block.profile [0x1F, 0xF0, 0x00] 1 = some status ∧
    frame block.profile [0xAA, Config.freeInitBrightness] 1 = some brightness ∧
    frame block.profile
      [0xAB, Config.freeInitMonitor.1, Config.freeInitMonitor.2.1, Config.freeInitMonitor.2.2] 1 = some monitor ∧
    frame block.profile [0xAC, Config.freeInitPid.1, Config.freeInitPid.2.1, 0xDE, Config.freeInitPid.2.2.1,
      Config.freeInitPid.2.2.2] 1 = some pid ∧
    ∀ (s : State) (draws : List Draws), ∃ (t : State) (packets : List (List Byte)),
      runInstrs (writtenRows (emitter true draws)) s = .next t ∧
      packets.Perm [status, brightness, monitor, pid] ∧
      t.fb = s.fb ++ [0xEE, 0x00] ++ packets.flatten ++ draws.flatMap drawnFrameBuffer)
end

