-- ==== Sys2Proof/Laws/Emitter.lean ====
section
/-! SUPPORT. What the emitter's lists hold: ordering and spreading rows loses none (spec/43_packet_formats.md R188). -/

namespace Sys2Proof.Machine

/-- After the sentinel the init phase carries each fixed packet once, in some order (R188). -/
theorem initRows_tail_perm : initRows.tail.Perm (List.ofFn initPacket) :=
  Equiv.Perm.ofFn_comp_perm Config.freeInitOrder initPacket

theorem splitWrites_flatten (n : Nat) (sizes : Nat → Nat) (rows : List Instr) :
    (splitWrites n sizes rows).flatten = rows := by
  induction n generalizing rows with
  | zero => simp [splitWrites]
  | succ n ih => rw [splitWrites, List.flatten_cons, ih, List.take_append_drop]

theorem splitWrites_length (n : Nat) (sizes : Nat → Nat) (rows : List Instr) :
    (splitWrites n sizes rows).length = n + 1 := by
  induction n generalizing rows with
  | zero => rfl
  | succ n ih => rw [splitWrites, List.length_cons, ih]

/-- The first write begins with the first row. -/
theorem splitWrites_head (n : Nat) (sizes : Nat → Nat) (r : Instr) (rows : List Instr) :
    ∃ more, (splitWrites n sizes (r :: rows)).head? = some (r :: more) := by
  cases n with
  | zero => exact ⟨rows, rfl⟩
  | succ n => exact ⟨rows.take (sizes n), rfl⟩

theorem writtenRows_append (a b : List EmitterAct) : writtenRows (a ++ b) = writtenRows a ++ writtenRows b := by
  simp [writtenRows]

/-- Pauses between writes add no rows. -/
theorem writtenRows_intersperse (d : Nat) (ws : List (List Instr)) :
    writtenRows ((ws.map .write).intersperse (.padDelay d)) = ws.flatten := by
  induction ws with
  | nil => rfl
  | cons w ws ih =>
    cases ws with
    | nil => simp [writtenRows]
    | cons v vs =>
      simp only [List.map_cons, List.intersperse_cons_cons, writtenRows, List.flatMap_cons, List.flatten_cons,
        List.nil_append] at ih ⊢
      rw [ih]

/-- The init phase executes its rows, in order (R188). -/
theorem writtenRows_initPhase : writtenRows initPhase = initRows := by
  rw [initPhase, writtenRows_intersperse, initWrites, splitWrites_flatten]

theorem writtenRows_emitterLoop (draws : List Draws) :
    writtenRows (emitterLoop draws) = draws.flatMap drawnIteration := by
  simp [writtenRows, emitterLoop, List.flatMap_assoc]

end Sys2Proof.Machine
end

