-- ==== Sys2Proof/Laws/Memory.lean ====
section
/-! SUPPORT. The laws of `f_buf`: what a write does to reads, to the canonical form, and to the first bytes. -/

namespace Sys2Proof.Machine

theorem Memory.read_write_same (m : Memory) (a : Nat) (v : Byte) : (m.write a v).read a = some v := by
  induction m with
  | nil => simp [Memory.write, Memory.read]
  | cons cell rest ih =>
    obtain ⟨a', v'⟩ := cell
    simp only [Memory.write]
    split
    · simp [Memory.read]
    · split
      · simp [Memory.read]
      · simp [Memory.read, *]

theorem Memory.read_write_other (m : Memory) (a a' : Nat) (v : Byte) (h : a' ≠ a) :
    (m.write a v).read a' = m.read a' := by
  induction m with
  | nil => simp [Memory.write, Memory.read, h]
  | cons cell rest ih =>
    obtain ⟨k, w⟩ := cell
    simp only [Memory.write]
    split
    · simp [Memory.read, h]
    · split
      · next hk => subst hk; simp [Memory.read, h]
      · simp [Memory.read, ih]

/-- The canonical form of a list with a head, by what the head is below. -/
theorem Memory.wf_cons (a : Nat) (v : Byte) (m : Memory) :
    Memory.wf ((a, v) :: m) = true ↔ (∀ cell, m.head? = some cell → a < cell.1) ∧ m.wf = true := by
  cases m with
  | nil => simp [Memory.wf]
  | cons cell rest => obtain ⟨a', v'⟩ := cell; simp [Memory.wf]

/-- Every write keeps the canonical form. -/
theorem Memory.wf_write (m : Memory) (a : Nat) (v : Byte) (h : m.wf = true) : (m.write a v).wf = true := by
  induction m with
  | nil => simp [Memory.write, Memory.wf]
  | cons cell rest ih =>
    obtain ⟨k, w⟩ := cell
    rw [Memory.wf_cons] at h
    simp only [Memory.write]
    split
    · next hlt => rw [Memory.wf_cons, Memory.wf_cons]; exact ⟨by simpa using hlt, h⟩
    · split
      · next he => subst he; rw [Memory.wf_cons]; exact h
      · next hlt hne =>
        rw [Memory.wf_cons]
        refine ⟨fun cell hc => ?_, ih h.2⟩
        cases rest with
        | nil => simp only [Memory.write, List.head?_cons, Option.some.injEq] at hc; subst hc; simp only; omega
        | cons cell' rest' =>
          obtain ⟨k', w'⟩ := cell'
          have hk := h.1 (k', w') rfl
          simp only [Memory.write] at hc
          split at hc <;> [skip; split at hc] <;>
            (simp only [List.head?_cons, Option.some.injEq] at hc; subst hc; simp only at *; omega)

/-- A write below `n` keeps every index below `n`. -/
theorem Memory.below_write (m : Memory) (a n : Nat) (v : Byte) (h : m.below n = true) (ha : a < n) :
    (m.write a v).below n = true := by
  induction m with
  | nil => simpa [Memory.write, Memory.below] using ha
  | cons cell rest ih =>
    obtain ⟨k, w⟩ := cell
    simp only [Memory.below, List.all_cons, Bool.and_eq_true, decide_eq_true_eq] at h ih ⊢
    simp only [Memory.write]
    split
    · simp [ha, h.1, h.2]
    · split
      · simp [ha, h.2]
      · simp [h.1, ih h.2]

/-- The first n+1 bytes are the first n and one more. -/
theorem Memory.firstBytes_succ (m : Memory) (n : Nat) :
    m.firstBytes (n + 1) = (m.firstBytes n).bind fun b => (m.read n).map fun v => b ++ [v] := by
  simp only [Memory.firstBytes, List.range_succ, List.mapM_append, List.mapM_cons, List.mapM_nil]
  cases List.mapM (Memory.read m) (List.range n) <;> cases m.read n <;> rfl

/-- The first bytes depend on no index at or above their number. -/
theorem Memory.firstBytes_congr {m m' : Memory} {n : Nat} (h : ∀ k, k < n → m.read k = m'.read k) :
    m.firstBytes n = m'.firstBytes n := by
  induction n with
  | zero => rfl
  | succ n ih =>
    rw [Memory.firstBytes_succ, Memory.firstBytes_succ, ih fun k hk => h k (by omega), h n (by omega)]

theorem Memory.firstBytes_length {m : Memory} {n : Nat} {b : List Byte} (h : m.firstBytes n = some b) :
    b.length = n := by
  induction n generalizing b with
  | zero => simp only [Memory.firstBytes, List.range_zero, List.mapM_nil] at h; cases h; rfl
  | succ n ih =>
    rw [Memory.firstBytes_succ] at h
    cases hb : m.firstBytes n with
    | none => simp [hb] at h
    | some b' =>
      cases hv : m.read n with
      | none => simp [hb, hv] at h
      | some v => simp [hb, hv] at h; subst h; simp [ih hb]

/-- Each of the first bytes is what a read at its index answers. -/
theorem Memory.read_of_firstBytes {m : Memory} {n : Nat} {b : List Byte} (h : m.firstBytes n = some b) {k : Nat}
    (hk : k < n) : m.read k = b[k]? := by
  induction n generalizing b with
  | zero => omega
  | succ n ih =>
    rw [Memory.firstBytes_succ] at h
    cases hb : m.firstBytes n with
    | none => simp [hb] at h
    | some b' =>
      cases hv : m.read n with
      | none => simp [hb, hv] at h
      | some v =>
        simp only [hb, hv, Option.bind_some, Option.map_some, Option.some.injEq] at h
        subst h
        have hl := Memory.firstBytes_length hb
        by_cases hkn : k < n
        · rw [ih hb hkn, List.getElem?_append_left (by omega)]
        · have : k = n := by omega
          subst this
          rw [hv, List.getElem?_append_right (by omega)]
          simp [hl]

/-- A push at index n: the first n+1 bytes are those before it and the byte pushed. -/
theorem Memory.firstBytes_write {m : Memory} {n : Nat} {b : List Byte} (h : m.firstBytes n = some b) (v : Byte) :
    (m.write n v).firstBytes (n + 1) = some (b ++ [v]) := by
  have hsame : (m.write n v).firstBytes n = some b := by
    rw [← h]
    exact Memory.firstBytes_congr fun k hk => Memory.read_write_other m n k v (by omega)
  simp [Memory.firstBytes_succ, hsame, Memory.read_write_same]

/-- The memory at reset is canonical. -/
theorem reset_buf_wf : State.reset.f_buf.wf = true := rfl

end Sys2Proof.Machine
end

