-- ==== Sys2Proof/Laws/State.lean ====
section
/-! SUPPORT. One lemma per field per update, so that no proof unfolds a record update. -/

namespace Sys2Proof.Machine

@[simp] theorem respond_g_acc (v : Byte) (s : State) : (respond v s).g_acc = s.g_acc := rfl
@[simp] theorem respond_f_buf (v : Byte) (s : State) : (respond v s).f_buf = s.f_buf := rfl
@[simp] theorem respond_f_len (v : Byte) (s : State) : (respond v s).f_len = s.f_len := rfl
@[simp] theorem respond_f_acc (v : Byte) (s : State) : (respond v s).f_acc = s.f_acc := rfl
@[simp] theorem respond_f_phase (v : Byte) (s : State) : (respond v s).f_phase = s.f_phase := rfl
@[simp] theorem respond_f_idx (v : Byte) (s : State) : (respond v s).f_idx = s.f_idx := rfl
@[simp] theorem respond_f_chk (v : Byte) (s : State) : (respond v s).f_chk = s.f_chk := rfl
@[simp] theorem respond_f_rp (v : Byte) (s : State) : (respond v s).f_rp = s.f_rp := rfl
@[simp] theorem respond_fault (v : Byte) (s : State) : (respond v s).fault = s.fault := rfl
@[simp] theorem respond_cause (v : Byte) (s : State) : (respond v s).cause = s.cause := rfl
@[simp] theorem respond_cmd (v : Byte) (s : State) : (respond v s).cmd = s.cmd := rfl
@[simp] theorem respond_rsp (v : Byte) (s : State) : (respond v s).rsp = s.rsp ++ [v] := rfl
@[simp] theorem respond_fb (v : Byte) (s : State) : (respond v s).fb = s.fb := rfl

@[simp] theorem respondZeroIf_g_acc (b : Bool) (s : State) : (respondZeroIf b s).g_acc = s.g_acc := rfl
@[simp] theorem respondZeroIf_f_buf (b : Bool) (s : State) : (respondZeroIf b s).f_buf = s.f_buf := rfl
@[simp] theorem respondZeroIf_f_len (b : Bool) (s : State) : (respondZeroIf b s).f_len = s.f_len := rfl
@[simp] theorem respondZeroIf_f_acc (b : Bool) (s : State) : (respondZeroIf b s).f_acc = s.f_acc := rfl
@[simp] theorem respondZeroIf_f_phase (b : Bool) (s : State) : (respondZeroIf b s).f_phase = s.f_phase := rfl
@[simp] theorem respondZeroIf_f_idx (b : Bool) (s : State) : (respondZeroIf b s).f_idx = s.f_idx := rfl
@[simp] theorem respondZeroIf_f_chk (b : Bool) (s : State) : (respondZeroIf b s).f_chk = s.f_chk := rfl
@[simp] theorem respondZeroIf_f_rp (b : Bool) (s : State) : (respondZeroIf b s).f_rp = s.f_rp := rfl
@[simp] theorem respondZeroIf_fault (b : Bool) (s : State) : (respondZeroIf b s).fault = s.fault := rfl
@[simp] theorem respondZeroIf_cause (b : Bool) (s : State) : (respondZeroIf b s).cause = s.cause := rfl
@[simp] theorem respondZeroIf_cmd (b : Bool) (s : State) : (respondZeroIf b s).cmd = s.cmd := rfl
@[simp] theorem respondZeroIf_rsp (b : Bool) (s : State) :
    (respondZeroIf b s).rsp = s.rsp ++ (if b then [0x00] else []) := rfl
@[simp] theorem respondZeroIf_fb (b : Bool) (s : State) : (respondZeroIf b s).fb = s.fb := rfl

@[simp] theorem raiseFault_g_acc (code : Cause) (s : State) : (raiseFault code s).g_acc = s.g_acc := rfl
@[simp] theorem raiseFault_f_buf (code : Cause) (s : State) : (raiseFault code s).f_buf = s.f_buf := rfl
@[simp] theorem raiseFault_f_len (code : Cause) (s : State) : (raiseFault code s).f_len = s.f_len := rfl
@[simp] theorem raiseFault_f_acc (code : Cause) (s : State) : (raiseFault code s).f_acc = s.f_acc := rfl
@[simp] theorem raiseFault_f_phase (code : Cause) (s : State) : (raiseFault code s).f_phase = s.f_phase := rfl
@[simp] theorem raiseFault_f_idx (code : Cause) (s : State) : (raiseFault code s).f_idx = s.f_idx := rfl
@[simp] theorem raiseFault_f_chk (code : Cause) (s : State) : (raiseFault code s).f_chk = s.f_chk := rfl
@[simp] theorem raiseFault_f_rp (code : Cause) (s : State) : (raiseFault code s).f_rp = s.f_rp := rfl
@[simp] theorem raiseFault_fault (code : Cause) (s : State) : (raiseFault code s).fault = true := rfl
@[simp] theorem raiseFault_cause (code : Cause) (s : State) :
    (raiseFault code s).cause = if s.fault then s.cause else code := rfl
@[simp] theorem raiseFault_cmd (code : Cause) (s : State) : (raiseFault code s).cmd = s.cmd := rfl
@[simp] theorem raiseFault_rsp (code : Cause) (s : State) : (raiseFault code s).rsp = s.rsp := rfl
@[simp] theorem raiseFault_fb (code : Cause) (s : State) : (raiseFault code s).fb = s.fb := rfl

@[simp] theorem faultingCommand_g_acc (op : Byte) (code : Cause) (s : State) :
    (faultingCommand op code s).g_acc = s.g_acc := rfl
@[simp] theorem faultingCommand_f_buf (op : Byte) (code : Cause) (s : State) :
    (faultingCommand op code s).f_buf = s.f_buf := rfl
@[simp] theorem faultingCommand_f_len (op : Byte) (code : Cause) (s : State) :
    (faultingCommand op code s).f_len = s.f_len := rfl
@[simp] theorem faultingCommand_f_acc (op : Byte) (code : Cause) (s : State) :
    (faultingCommand op code s).f_acc = s.f_acc := rfl
@[simp] theorem faultingCommand_f_phase (op : Byte) (code : Cause) (s : State) :
    (faultingCommand op code s).f_phase = s.f_phase := rfl
@[simp] theorem faultingCommand_f_idx (op : Byte) (code : Cause) (s : State) :
    (faultingCommand op code s).f_idx = s.f_idx := rfl
@[simp] theorem faultingCommand_f_chk (op : Byte) (code : Cause) (s : State) :
    (faultingCommand op code s).f_chk = s.f_chk := rfl
@[simp] theorem faultingCommand_f_rp (op : Byte) (code : Cause) (s : State) :
    (faultingCommand op code s).f_rp = s.f_rp := rfl
@[simp] theorem faultingCommand_fault (op : Byte) (code : Cause) (s : State) :
    (faultingCommand op code s).fault = true := rfl
@[simp] theorem faultingCommand_cause (op : Byte) (code : Cause) (s : State) :
    (faultingCommand op code s).cause = if s.fault then s.cause else code := rfl
@[simp] theorem faultingCommand_cmd (op : Byte) (code : Cause) (s : State) :
    (faultingCommand op code s).cmd = s.cmd := rfl
@[simp] theorem faultingCommand_rsp (op : Byte) (code : Cause) (s : State) :
    (faultingCommand op code s).rsp = s.rsp ++ (if isRead op then [0x00] else []) := rfl
@[simp] theorem faultingCommand_fb (op : Byte) (code : Cause) (s : State) :
    (faultingCommand op code s).fb = s.fb := rfl

@[simp] theorem assertReset_g_acc (c : Config) (s : State) : (assertReset c s).g_acc = c.profile.init := rfl
@[simp] theorem assertReset_f_buf (c : Config) (s : State) : (assertReset c s).f_buf = [] := rfl
@[simp] theorem assertReset_f_len (c : Config) (s : State) : (assertReset c s).f_len = 0 := rfl
@[simp] theorem assertReset_f_acc (c : Config) (s : State) : (assertReset c s).f_acc = c.profile.init := rfl
@[simp] theorem assertReset_f_phase (c : Config) (s : State) : (assertReset c s).f_phase = .accum := rfl
@[simp] theorem assertReset_f_idx (c : Config) (s : State) : (assertReset c s).f_idx = 0 := rfl
@[simp] theorem assertReset_f_chk (c : Config) (s : State) : (assertReset c s).f_chk = 0x00 := rfl
@[simp] theorem assertReset_f_rp (c : Config) (s : State) : (assertReset c s).f_rp = 0 := rfl
@[simp] theorem assertReset_fault (c : Config) (s : State) : (assertReset c s).fault = false := rfl
@[simp] theorem assertReset_cause (c : Config) (s : State) : (assertReset c s).cause = .none := rfl
@[simp] theorem assertReset_cmd (c : Config) (s : State) : (assertReset c s).cmd = s.cmd := rfl
@[simp] theorem assertReset_rsp (c : Config) (s : State) : (assertReset c s).rsp = s.rsp := rfl
@[simp] theorem assertReset_fb (c : Config) (s : State) : (assertReset c s).fb = s.fb := rfl

@[simp] theorem setEvents_g_acc (es : List HostEvent) (s : State) : (setEvents es s).g_acc = s.g_acc := rfl
@[simp] theorem setEvents_f_buf (es : List HostEvent) (s : State) : (setEvents es s).f_buf = s.f_buf := rfl
@[simp] theorem setEvents_f_len (es : List HostEvent) (s : State) : (setEvents es s).f_len = s.f_len := rfl
@[simp] theorem setEvents_f_acc (es : List HostEvent) (s : State) : (setEvents es s).f_acc = s.f_acc := rfl
@[simp] theorem setEvents_f_phase (es : List HostEvent) (s : State) : (setEvents es s).f_phase = s.f_phase := rfl
@[simp] theorem setEvents_f_idx (es : List HostEvent) (s : State) : (setEvents es s).f_idx = s.f_idx := rfl
@[simp] theorem setEvents_f_chk (es : List HostEvent) (s : State) : (setEvents es s).f_chk = s.f_chk := rfl
@[simp] theorem setEvents_f_rp (es : List HostEvent) (s : State) : (setEvents es s).f_rp = s.f_rp := rfl
@[simp] theorem setEvents_fault (es : List HostEvent) (s : State) : (setEvents es s).fault = s.fault := rfl
@[simp] theorem setEvents_cause (es : List HostEvent) (s : State) : (setEvents es s).cause = s.cause := rfl
@[simp] theorem setEvents_cmd (es : List HostEvent) (s : State) : (setEvents es s).cmd = es := rfl
@[simp] theorem setEvents_rsp (es : List HostEvent) (s : State) : (setEvents es s).rsp = s.rsp := rfl
@[simp] theorem setEvents_fb (es : List HostEvent) (s : State) : (setEvents es s).fb = s.fb := rfl

@[simp] theorem appendFrameBuffer_g_acc (bytes : List Byte) (s : State) :
    (appendFrameBuffer bytes s).g_acc = s.g_acc := rfl
@[simp] theorem appendFrameBuffer_f_buf (bytes : List Byte) (s : State) :
    (appendFrameBuffer bytes s).f_buf = s.f_buf := rfl
@[simp] theorem appendFrameBuffer_f_len (bytes : List Byte) (s : State) :
    (appendFrameBuffer bytes s).f_len = s.f_len := rfl
@[simp] theorem appendFrameBuffer_f_acc (bytes : List Byte) (s : State) :
    (appendFrameBuffer bytes s).f_acc = s.f_acc := rfl
@[simp] theorem appendFrameBuffer_f_phase (bytes : List Byte) (s : State) :
    (appendFrameBuffer bytes s).f_phase = s.f_phase := rfl
@[simp] theorem appendFrameBuffer_f_idx (bytes : List Byte) (s : State) :
    (appendFrameBuffer bytes s).f_idx = s.f_idx := rfl
@[simp] theorem appendFrameBuffer_f_chk (bytes : List Byte) (s : State) :
    (appendFrameBuffer bytes s).f_chk = s.f_chk := rfl
@[simp] theorem appendFrameBuffer_f_rp (bytes : List Byte) (s : State) :
    (appendFrameBuffer bytes s).f_rp = s.f_rp := rfl
@[simp] theorem appendFrameBuffer_fault (bytes : List Byte) (s : State) :
    (appendFrameBuffer bytes s).fault = s.fault := rfl
@[simp] theorem appendFrameBuffer_cause (bytes : List Byte) (s : State) :
    (appendFrameBuffer bytes s).cause = s.cause := rfl
@[simp] theorem appendFrameBuffer_cmd (bytes : List Byte) (s : State) : (appendFrameBuffer bytes s).cmd = s.cmd := rfl
@[simp] theorem appendFrameBuffer_rsp (bytes : List Byte) (s : State) : (appendFrameBuffer bytes s).rsp = s.rsp := rfl
@[simp] theorem appendFrameBuffer_fb (bytes : List Byte) (s : State) :
    (appendFrameBuffer bytes s).fb = s.fb ++ bytes := rfl

@[simp] theorem ginit_g_acc (c : Config) (s : State) : (ginit c s).g_acc = c.profile.init := rfl
@[simp] theorem ginit_f_buf (c : Config) (s : State) : (ginit c s).f_buf = s.f_buf := rfl
@[simp] theorem ginit_f_len (c : Config) (s : State) : (ginit c s).f_len = s.f_len := rfl
@[simp] theorem ginit_f_acc (c : Config) (s : State) : (ginit c s).f_acc = s.f_acc := rfl
@[simp] theorem ginit_f_phase (c : Config) (s : State) : (ginit c s).f_phase = s.f_phase := rfl
@[simp] theorem ginit_f_idx (c : Config) (s : State) : (ginit c s).f_idx = s.f_idx := rfl
@[simp] theorem ginit_f_chk (c : Config) (s : State) : (ginit c s).f_chk = s.f_chk := rfl
@[simp] theorem ginit_f_rp (c : Config) (s : State) : (ginit c s).f_rp = s.f_rp := rfl
@[simp] theorem ginit_fault (c : Config) (s : State) : (ginit c s).fault = s.fault := rfl
@[simp] theorem ginit_cause (c : Config) (s : State) : (ginit c s).cause = s.cause := rfl
@[simp] theorem ginit_cmd (c : Config) (s : State) : (ginit c s).cmd = s.cmd := rfl
@[simp] theorem ginit_rsp (c : Config) (s : State) : (ginit c s).rsp = s.rsp := rfl
@[simp] theorem ginit_fb (c : Config) (s : State) : (ginit c s).fb = s.fb := rfl

@[simp] theorem gupd_g_acc (c : Config) (d : Byte) (s : State) :
    (gupd c d s).g_acc = crcStep c.profile s.g_acc d := rfl
@[simp] theorem gupd_f_buf (c : Config) (d : Byte) (s : State) : (gupd c d s).f_buf = s.f_buf := rfl
@[simp] theorem gupd_f_len (c : Config) (d : Byte) (s : State) : (gupd c d s).f_len = s.f_len := rfl
@[simp] theorem gupd_f_acc (c : Config) (d : Byte) (s : State) : (gupd c d s).f_acc = s.f_acc := rfl
@[simp] theorem gupd_f_phase (c : Config) (d : Byte) (s : State) : (gupd c d s).f_phase = s.f_phase := rfl
@[simp] theorem gupd_f_idx (c : Config) (d : Byte) (s : State) : (gupd c d s).f_idx = s.f_idx := rfl
@[simp] theorem gupd_f_chk (c : Config) (d : Byte) (s : State) : (gupd c d s).f_chk = s.f_chk := rfl
@[simp] theorem gupd_f_rp (c : Config) (d : Byte) (s : State) : (gupd c d s).f_rp = s.f_rp := rfl
@[simp] theorem gupd_fault (c : Config) (d : Byte) (s : State) : (gupd c d s).fault = s.fault := rfl
@[simp] theorem gupd_cause (c : Config) (d : Byte) (s : State) : (gupd c d s).cause = s.cause := rfl
@[simp] theorem gupd_cmd (c : Config) (d : Byte) (s : State) : (gupd c d s).cmd = s.cmd := rfl
@[simp] theorem gupd_rsp (c : Config) (d : Byte) (s : State) : (gupd c d s).rsp = s.rsp := rfl
@[simp] theorem gupd_fb (c : Config) (d : Byte) (s : State) : (gupd c d s).fb = s.fb := rfl

@[simp] theorem fclr_g_acc (c : Config) (s : State) : (fclr c s).g_acc = s.g_acc := rfl
@[simp] theorem fclr_f_buf (c : Config) (s : State) : (fclr c s).f_buf = s.f_buf := rfl
@[simp] theorem fclr_f_len (c : Config) (s : State) : (fclr c s).f_len = 0 := rfl
@[simp] theorem fclr_f_acc (c : Config) (s : State) : (fclr c s).f_acc = c.profile.init := rfl
@[simp] theorem fclr_f_phase (c : Config) (s : State) : (fclr c s).f_phase = .accum := rfl
@[simp] theorem fclr_f_idx (c : Config) (s : State) : (fclr c s).f_idx = 0 := rfl
@[simp] theorem fclr_f_chk (c : Config) (s : State) : (fclr c s).f_chk = 0x00 := rfl
@[simp] theorem fclr_f_rp (c : Config) (s : State) : (fclr c s).f_rp = 0 := rfl
@[simp] theorem fclr_fault (c : Config) (s : State) : (fclr c s).fault = s.fault := rfl
@[simp] theorem fclr_cause (c : Config) (s : State) : (fclr c s).cause = s.cause := rfl
@[simp] theorem fclr_cmd (c : Config) (s : State) : (fclr c s).cmd = s.cmd := rfl
@[simp] theorem fclr_rsp (c : Config) (s : State) : (fclr c s).rsp = s.rsp := rfl
@[simp] theorem fclr_fb (c : Config) (s : State) : (fclr c s).fb = s.fb := rfl

@[simp] theorem latchFrame_g_acc (c : Config) (idx : BitVec 8) (s : State) :
    (latchFrame c idx s).g_acc = s.g_acc := rfl
@[simp] theorem latchFrame_f_buf (c : Config) (idx : BitVec 8) (s : State) :
    (latchFrame c idx s).f_buf = s.f_buf := rfl
@[simp] theorem latchFrame_f_len (c : Config) (idx : BitVec 8) (s : State) :
    (latchFrame c idx s).f_len = s.f_len := rfl
@[simp] theorem latchFrame_f_acc (c : Config) (idx : BitVec 8) (s : State) :
    (latchFrame c idx s).f_acc = s.f_acc := rfl
@[simp] theorem latchFrame_f_phase (c : Config) (idx : BitVec 8) (s : State) :
    (latchFrame c idx s).f_phase = .emit := rfl
@[simp] theorem latchFrame_f_idx (c : Config) (idx : BitVec 8) (s : State) : (latchFrame c idx s).f_idx = idx := rfl
@[simp] theorem latchFrame_f_chk (c : Config) (idx : BitVec 8) (s : State) :
    (latchFrame c idx s).f_chk = crcFinal c.profile s.f_acc := rfl
@[simp] theorem latchFrame_f_rp (c : Config) (idx : BitVec 8) (s : State) : (latchFrame c idx s).f_rp = 0 := rfl
@[simp] theorem latchFrame_fault (c : Config) (idx : BitVec 8) (s : State) :
    (latchFrame c idx s).fault = s.fault := rfl
@[simp] theorem latchFrame_cause (c : Config) (idx : BitVec 8) (s : State) :
    (latchFrame c idx s).cause = s.cause := rfl
@[simp] theorem latchFrame_cmd (c : Config) (idx : BitVec 8) (s : State) : (latchFrame c idx s).cmd = s.cmd := rfl
@[simp] theorem latchFrame_rsp (c : Config) (idx : BitVec 8) (s : State) : (latchFrame c idx s).rsp = s.rsp := rfl
@[simp] theorem latchFrame_fb (c : Config) (idx : BitVec 8) (s : State) : (latchFrame c idx s).fb = s.fb := rfl

end Sys2Proof.Machine
end

