-- ==== Sys2Proof/Laws/Framer.lean ====
section
/-! SUPPORT. What the framer's operations can do, said once (spec/41_framer.md section 2). -/

namespace Sys2Proof.Machine

theorem phase_ne_accum (p : Phase) : p ≠ .accum ↔ p = .emit := by cases p <;> simp

theorem phase_ne_emit (p : Phase) : p ≠ .emit ↔ p = .accum := by cases p <;> simp

/-- FPUSH's four ways (R134), the last of which no state with `f_len <= BUF_BYTES` takes. -/
theorem fpush_cases (c : Config) (d : Byte) (s : State) :
    (s.f_phase = .emit ∧ fpush c d s = .next (faultingCommand 0x21 .phase s)) ∨
    (s.f_phase = .accum ∧ s.f_len.toNat = c.bufBytes ∧ fpush c d s = .next (faultingCommand 0x21 .overflow s)) ∨
    (s.f_phase = .accum ∧ s.f_len.toNat < c.bufBytes ∧
      fpush c d s = .next { s with
        f_buf := s.f_buf.write s.f_len.toNat d, f_len := s.f_len + 1, f_acc := crcStep c.profile s.f_acc d }) ∨
    (s.f_phase = .accum ∧ c.bufBytes < s.f_len.toNat ∧ fpush c d s = .fault .bufferRange) := by
  by_cases hp : s.f_phase = .emit
  · exact .inl ⟨hp, by simp [fpush, hp]⟩
  · have ha := (phase_ne_emit _).1 hp
    by_cases hf : s.f_len.toNat = c.bufBytes
    · exact .inr (.inl ⟨ha, hf, by simp [fpush, ha, fullBit, hf]⟩)
    · by_cases hl : s.f_len.toNat < c.bufBytes
      · exact .inr (.inr (.inl ⟨ha, hl, by simp [fpush, ha, fullBit, hf, writeBuf, pushIndex, hl]⟩))
      · exact .inr (.inr (.inr ⟨ha, by omega, by simp [fpush, ha, fullBit, hf, writeBuf, pushIndex, hl]⟩))

/-- `f_len + 1` does not wrap below a capacity (R10). -/
theorem f_len_succ (c : Config) {n : BitVec 8} (h : n.toNat < c.bufBytes) : (n + 1).toNat = n.toNat + 1 := by
  have := c.bufMax
  have hone : (1 : BitVec 8).toNat = 1 := rfl
  rw [BitVec.toNat_add, hone]
  omega

/-- FFRAME's three ways (R135). -/
theorem fframe_cases (c : Config) (i : Byte) (s : State) :
    (s.f_phase = .emit ∧ fframe c i s = faultingCommand 0x22 .phase s) ∨
    (s.f_phase = .accum ∧ s.f_len.toNat < i.toNat ∧ fframe c i s = faultingCommand 0x22 .badIndex s) ∨
    (s.f_phase = .accum ∧ i.toNat ≤ s.f_len.toNat ∧ fframe c i s = latchFrame c i s) := by
  by_cases hp : s.f_phase = .emit
  · exact .inl ⟨hp, by simp [fframe, hp]⟩
  · have ha := (phase_ne_emit _).1 hp
    by_cases hi : s.f_len.toNat < i.toNat
    · exact .inr (.inl ⟨ha, hi, by simp [fframe, ha, indexOperand, hi]⟩)
    · exact .inr (.inr ⟨ha, by omega, by simp [fframe, ha, indexOperand, hi]⟩)

/-- FFRAMEE's two ways (R136). -/
theorem fframee_cases (c : Config) (s : State) :
    (s.f_phase = .emit ∧ fframee c s = faultingCommand 0x23 .phase s) ∨
    (s.f_phase = .accum ∧ fframee c s = latchFrame c s.f_len s) := by
  by_cases hp : s.f_phase = .emit
  · exact .inl ⟨hp, by simp [fframee, hp]⟩
  · exact .inr ⟨(phase_ne_emit _).1 hp, by simp [fframee, (phase_ne_emit _).1 hp]⟩

/-- FREAD's four ways (R137), the last of which no reachable state takes. -/
theorem fread_cases (s : State) :
    (s.f_phase = .accum ∧ fread s = .next (faultingCommand 0x24 .phase s)) ∨
    (s.f_phase = .emit ∧ s.f_rp.toNat = s.f_len.toNat + 1 ∧ fread s = .next (faultingCommand 0x24 .underflow s)) ∨
    (s.f_phase = .emit ∧ s.f_rp.toNat ≠ s.f_len.toNat + 1 ∧ ∃ v, outByte s s.f_rp.toNat = some v ∧
      fread s = .next { s with rsp := s.rsp ++ [v], f_rp := s.f_rp + 1 }) ∨
    (s.f_phase = .emit ∧ s.f_rp.toNat ≠ s.f_len.toNat + 1 ∧ outByte s s.f_rp.toNat = none ∧
      fread s = .fault .bufferUnread) := by
  by_cases hp : s.f_phase = .accum
  · exact .inl ⟨hp, by simp [fread, hp]⟩
  · have he := (phase_ne_accum _).1 hp
    by_cases hd : s.f_rp.toNat = s.f_len.toNat + 1
    · exact .inr (.inl ⟨he, hd, by simp [fread, he, drained, hd]⟩)
    · cases ho : outByte s s.f_rp.toNat with
      | none => exact .inr (.inr (.inr ⟨he, hd, rfl, by simp [fread, he, drained, hd, ho]⟩))
      | some v => exact .inr (.inr (.inl ⟨he, hd, v, rfl, by simp [fread, he, drained, hd, ho, respond]⟩))

/-- `OutByte` over known buffer contents (R132). -/
theorem outByte_of_firstBytes {s : State} {b : List Byte} (hb : s.f_buf.firstBytes s.f_len.toNat = some b)
    (hi : s.f_idx.toNat ≤ s.f_len.toNat) {k : Nat} (hk : k ≤ s.f_len.toNat) :
    outByte s k = (b.take s.f_idx.toNat ++ [s.f_chk] ++ b.drop s.f_idx.toNat)[k]? := by
  have hl := Memory.firstBytes_length hb
  simp only [outByte, hk, hi, and_self, if_true]
  rcases Nat.lt_trichotomy k s.f_idx.toNat with h | h | h
  · rw [if_pos h, readBuf, if_pos (by omega), Memory.read_of_firstBytes hb (by omega), List.append_assoc,
      List.getElem?_append_left (by rw [List.length_take]; omega), List.getElem?_take_of_lt h]
  · rw [if_neg (by omega), if_pos h, List.append_assoc,
      List.getElem?_append_right (by rw [List.length_take]; omega)]
    simp [List.length_take, hl, h, Nat.min_eq_left hi]
  · rw [if_neg (by omega), if_neg (by omega), readBuf, if_pos (by omega),
      Memory.read_of_firstBytes hb (by omega), List.getElem?_append_right (by simp; omega), List.getElem?_drop]
    congr 1
    simp only [List.length_append, List.length_take, List.length_cons, List.length_nil]
    omega

end Sys2Proof.Machine
end

