-- ==== Sys2Proof/Laws/Packets.lean ====
section
/-! SUPPORT. What the host's operations on the framer do: pushing bytes, reading a frame out, building a packet
(spec/30_encoding.md R80, spec/43_packet_formats.md R191). -/

namespace Sys2Proof.Machine

/-- What storing b above the bytes b0 does to the buffer. -/
structure Stored (c : Config) (b0 b : List Byte) (before after : Memory) : Prop where
  bytes : after.firstBytes (b0.length + b.length) = some (b0 ++ b)
  above : ∀ a, b0.length + b.length ≤ a → after.read a = before.read a
  below : ∀ a, a < b0.length → after.read a = before.read a
  wf : before.wf = true → after.wf = true
  inRange : before.below c.bufBytes = true → after.below c.bufBytes = true

/-- Pushing b in ACCUM, where it fits, completes (R134). -/
theorem pushAll_next (c : Config) (b : List Byte) {s : State} {b0 : List Byte} (hp : s.f_phase = .accum)
    (hb : s.f_buf.firstBytes s.f_len.toNat = some b0) (hfit : b0.length + b.length ≤ c.bufBytes) :
    ∃ m, Stored c b0 b s.f_buf m ∧ pushAll c b s = .next { s with
      f_buf := m
      f_len := s.f_len + BitVec.ofNat 8 b.length
      f_acc := b.foldl (crcStep c.profile) s.f_acc } := by
  induction b generalizing s b0 with
  | nil =>
    have hl := Memory.firstBytes_length hb
    exact ⟨s.f_buf, ⟨by simpa [hl] using hb, fun _ _ => rfl, fun _ _ => rfl, id, id⟩, by simp [pushAll]⟩
  | cons d b ih =>
    have hl := Memory.firstBytes_length hb
    have hlt : s.f_len.toNat < c.bufBytes := by simp only [List.length_cons] at hfit; omega
    obtain ⟨h, -⟩ | ⟨-, h, -⟩ | ⟨-, -, h⟩ | ⟨-, h, -⟩ := fpush_cases c d s
    · rw [hp] at h; cases h
    · omega
    · have hb' := Memory.firstBytes_write hb d
      rw [← f_len_succ c hlt] at hb'
      obtain ⟨m, P, hm⟩ := @ih { s with
          f_buf := s.f_buf.write s.f_len.toNat d, f_len := s.f_len + 1, f_acc := crcStep c.profile s.f_acc d }
        (b0 ++ [d]) hp hb' (by simp only [List.length_append, List.length_cons, List.length_nil] at hfit ⊢; omega)
      have hlen : s.f_len + 1 + BitVec.ofNat 8 b.length = s.f_len + BitVec.ofNat 8 (d :: b).length := by
        rw [BitVec.add_assoc, List.length_cons, Nat.add_comm b.length 1, BitVec.ofNat_add]; rfl
      refine ⟨m, ⟨?_, fun a ha => ?_, fun a ha => ?_, fun hw => P.wf (Memory.wf_write _ _ _ hw),
        fun hr => P.inRange (Memory.below_write _ _ _ _ hr hlt)⟩, by rw [pushAll, h, andThen, hm]; dsimp only; rw [hlen]; rfl⟩
      · have := P.bytes
        simp only [List.length_append, List.length_cons, List.length_nil, List.append_assoc, List.singleton_append]
          at this
        rwa [List.length_cons, Nat.add_comm b.length 1, ← Nat.add_assoc]
      · simp only [List.length_cons] at ha
        rw [P.above a (by simp; omega)]
        exact Memory.read_write_other _ _ _ _ (by omega)
      · rw [P.below a (by simp; omega)]
        exact Memory.read_write_other _ _ _ _ (by omega)
    · omega

/-- Reading n bytes of a frame out, from position `f_rp` (R137). -/
theorem readAll_next (n : Nat) {s : State} {b : List Byte} (hp : s.f_phase = .emit)
    (hb : s.f_buf.firstBytes s.f_len.toNat = some b) (hi : s.f_idx.toNat ≤ s.f_len.toNat)
    (hn : s.f_rp.toNat + n ≤ s.f_len.toNat + 1) :
    readAll n s = .next { s with
      rsp := s.rsp ++ ((b.take s.f_idx.toNat ++ [s.f_chk] ++ b.drop s.f_idx.toNat).drop s.f_rp.toNat).take n
      f_rp := s.f_rp + BitVec.ofNat 9 n } := by
  induction n generalizing s with
  | zero => simp [readAll]
  | succ n ih =>
    have hbound := s.f_len.isLt
    have ho := outByte_of_firstBytes hb hi (k := s.f_rp.toNat) (by omega)
    obtain ⟨h, -⟩ | ⟨-, h, -⟩ | ⟨-, -, v, hv, h⟩ | ⟨-, -, h, -⟩ := fread_cases s
    · rw [hp] at h; cases h
    · omega
    · have hone : (s.f_rp + 1).toNat = s.f_rp.toNat + 1 := by
        have h1 : (1 : BitVec 9).toNat = 1 := rfl
        rw [BitVec.toNat_add, h1]
        omega
      rw [ho] at hv
      obtain ⟨hlt, hget⟩ := List.getElem?_eq_some_iff.1 hv
      have hrp : s.f_rp + 1 + BitVec.ofNat 9 n = s.f_rp + BitVec.ofNat 9 (n + 1) := by
        rw [BitVec.add_assoc, Nat.add_comm n 1, BitVec.ofNat_add]; rfl
      have hrec := @ih { s with rsp := s.rsp ++ [v], f_rp := s.f_rp + 1 } hp hb hi
        (by dsimp only; rw [hone]; omega)
      dsimp only at hrec
      rw [hone, hrp] at hrec
      rw [readAll, h, andThen, hrec, List.drop_eq_getElem_cons hlt, hget, List.take_succ_cons]
      simp only [List.append_assoc, List.singleton_append]
    · have hl := Memory.firstBytes_length hb
      rw [ho, List.getElem?_eq_none_iff] at h
      simp only [List.length_append, List.length_take, List.length_cons, List.length_nil, List.length_drop] at h
      omega

/-- A list read out whole from position 0. -/
theorem take_whole (l : List Byte) {n : Nat} (h : l.length ≤ n) : (l.drop 0).take n = l := by
  rw [List.drop_zero, List.take_of_length_le h]

/-- `FRAME b @ i` completes from every state, for a b that fits and a legal index (R80, R139). -/
theorem frameOnBlock_next (c : Config) (b : List Byte) (i : Byte) (s : State) (hfit : b.length ≤ c.bufBytes)
    (hi : i.toNat ≤ b.length) : ∃ m, Stored c [] b s.f_buf m ∧ frameOnBlock c b i s = .next { s with
      f_buf := m
      f_len := BitVec.ofNat 8 b.length
      f_acc := b.foldl (crcStep c.profile) c.profile.init
      f_phase := .emit
      f_idx := i
      f_chk := crc c.profile b
      f_rp := BitVec.ofNat 9 (b.length + 1)
      rsp := s.rsp ++ (b.take i.toNat ++ [crc c.profile b] ++ b.drop i.toNat) } := by
  have hmax := c.bufMax
  obtain ⟨m, P, hm⟩ := pushAll_next c b (s := fclr c s) (b0 := []) rfl rfl (by simpa using hfit)
  have hlen : (BitVec.ofNat 8 b.length).toNat = b.length := by rw [BitVec.toNat_ofNat]; omega
  have hlen0 : (0 : BitVec 8) + BitVec.ofNat 8 b.length = BitVec.ofNat 8 b.length := BitVec.zero_add _
  simp only [fclr_f_len, fclr_f_acc, hlen0] at hm
  refine ⟨m, P, ?_⟩
  rw [frameOnBlock, hm, andThen]
  obtain ⟨h, -⟩ | ⟨-, h, -⟩ | ⟨-, -, hf⟩ := fframe_cases c i { fclr c s with
    f_buf := m, f_len := BitVec.ofNat 8 b.length, f_acc := b.foldl (crcStep c.profile) c.profile.init }
  · cases h
  · rw [hlen] at h; omega
  · rw [hf, readAll_next (b.length + 1) (b := b) rfl
      (by rw [latchFrame_f_buf, latchFrame_f_len, hlen]; simpa using P.bytes)
      (by rw [latchFrame_f_idx, latchFrame_f_len, hlen]; exact hi)
      (by rw [latchFrame_f_rp, latchFrame_f_len, hlen]; exact Nat.le_of_eq (Nat.zero_add _))]
    have hz : (0 : BitVec 9).toNat = 0 := rfl
    rw [latchFrame_f_rp, hz, take_whole _ (by simp; omega)]
    simp [latchFrame, fclr, crc]

/-- Building a packet completes from every state: the block gives back `Frame(b, 1)` and the host appends it to its
frame buffer (R191). -/
theorem buildPacket_next (c : Config) (b : List Byte) (s : State) (hfit : b.length ≤ c.bufBytes)
    (hne : 1 ≤ b.length) : ∃ m, Stored c [] b s.f_buf m ∧ buildPacket c b s = .next { s with
      f_buf := m
      f_len := BitVec.ofNat 8 b.length
      f_acc := b.foldl (crcStep c.profile) c.profile.init
      f_phase := .emit
      f_idx := 1
      f_chk := crc c.profile b
      f_rp := BitVec.ofNat 9 (b.length + 1)
      rsp := s.rsp ++ (b.take 1 ++ [crc c.profile b] ++ b.drop 1)
      fb := s.fb ++ (b.take 1 ++ [crc c.profile b] ++ b.drop 1) } := by
  obtain ⟨m, P, hm⟩ := frameOnBlock_next c b 1 s hfit hne
  have hidx : BitVec.ofNat 8 packetIndex = 1 := rfl
  have hone : (1 : BitVec 8).toNat = 1 := rfl
  rw [hone] at hm
  refine ⟨m, P, ?_⟩
  rw [buildPacket, hidx, hm, andThen, collectResponses, List.drop_left]
  rfl

/-! ## A buffer that does not fit `f_buf` -/

theorem pushAll_append (c : Config) (a b : List Byte) (s : State) :
    pushAll c (a ++ b) s = andThen (pushAll c a s) (pushAll c b) := by
  induction a generalizing s with
  | nil => rfl
  | cons d a ih =>
    rw [List.cons_append, pushAll, pushAll]
    cases fpush c d s with
    | next t => exact ih t
    | fault r => rfl
    | refused r => rfl

theorem readAll_add (m n : Nat) (s : State) : readAll (m + n) s = andThen (readAll m s) (readAll n) := by
  induction m generalizing s with
  | zero => rw [Nat.zero_add]; rfl
  | succ m ih =>
    rw [Nat.add_right_comm, readAll, readAll]
    cases fread s with
    | next t => exact ih t
    | fault r => rfl
    | refused r => rfl

/-- Pushing into a full buffer only records OVERFLOW (R134). -/
theorem pushAll_full (c : Config) (b : List Byte) {s : State} (hp : s.f_phase = .accum)
    (hl : s.f_len.toNat = c.bufBytes) (hb : b ≠ []) : pushAll c b s = .next (raiseFault .overflow s) := by
  induction b generalizing s with
  | nil => exact absurd rfl hb
  | cons d b ih =>
    have hd : fpush c d s = .next (raiseFault .overflow s) := by
      obtain ⟨h, -⟩ | ⟨-, -, h⟩ | ⟨-, h, -⟩ | ⟨-, h, -⟩ := fpush_cases c d s
      · rw [hp] at h; cases h
      · rw [h]; simp [faultingCommand, respondZeroIf, isRead]; rfl
      · omega
      · omega
    rw [pushAll, hd, andThen]
    cases b with
    | nil => rfl
    | cons d' b =>
      rw [ih (s := raiseFault .overflow s) hp hl (by simp)]
      simp [raiseFault]

/-- Reading past the end only records UNDERFLOW and responds 0x00 (R137); here where a fault stands already. -/
theorem readAll_drained (n : Nat) {s : State} (hp : s.f_phase = .emit) (hd : s.f_rp.toNat = s.f_len.toNat + 1)
    (hf : s.fault = true) : readAll n s = .next { s with rsp := s.rsp ++ List.replicate n 0x00 } := by
  induction n generalizing s with
  | zero => simp [readAll]
  | succ n ih =>
    have hr : fread s = .next { s with rsp := s.rsp ++ [0x00] } := by
      obtain ⟨h, -⟩ | ⟨-, -, h⟩ | ⟨-, h, -⟩ | ⟨-, h, -⟩ := fread_cases s
      · rw [hp] at h; cases h
      · rw [h]; cases s; cases hf; rfl
      · exact absurd hd h
      · exact absurd hd h
    rw [readAll, hr, andThen, ih (s := { s with rsp := s.rsp ++ [0x00] }) hp hd hf]
    simp [List.replicate_succ]

/-- `FRAME b @ i` for a b that does not fit, from every state: the first `BUF_BYTES` bytes are framed, OVERFLOW is
recorded, and each further FREAD responds 0x00. -/
theorem frameOnBlock_overlong (c : Config) (b : List Byte) (i : Byte) (s : State) (hlong : c.bufBytes < b.length)
    (hi : i.toNat ≤ c.bufBytes) :
    ∃ m, Stored c [] (b.take c.bufBytes) s.f_buf m ∧ frameOnBlock c b i s = .next { s with
      f_buf := m
      f_len := BitVec.ofNat 8 c.bufBytes
      f_acc := (b.take c.bufBytes).foldl (crcStep c.profile) c.profile.init
      f_phase := .emit
      f_idx := i
      f_chk := crc c.profile (b.take c.bufBytes)
      f_rp := BitVec.ofNat 9 (c.bufBytes + 1)
      fault := true
      cause := if s.fault then s.cause else .overflow
      rsp := s.rsp ++
        ((b.take c.bufBytes).take i.toNat ++ [crc c.profile (b.take c.bufBytes)] ++ (b.take c.bufBytes).drop i.toNat) ++
        List.replicate (b.length - c.bufBytes) 0x00 } := by
  have hmax := c.bufMax
  generalize hk : b.take c.bufBytes = kept
  have hkl : kept.length = c.bufBytes := by rw [← hk, List.length_take]; omega
  have hsplit : b = kept ++ b.drop c.bufBytes := by rw [← hk, List.take_append_drop]
  have hrest : b.drop c.bufBytes ≠ [] := by
    intro h; have := congrArg List.length h; rw [List.length_drop, List.length_nil] at this; omega
  have hlen : (BitVec.ofNat 8 c.bufBytes).toNat = c.bufBytes := by rw [BitVec.toNat_ofNat]; omega
  have hrp : (BitVec.ofNat 9 (c.bufBytes + 1)).toNat = c.bufBytes + 1 := by rw [BitVec.toNat_ofNat]; omega
  have hlen0 : (0 : BitVec 8) + BitVec.ofNat 8 kept.length = BitVec.ofNat 8 c.bufBytes := by
    rw [hkl]; exact BitVec.zero_add _
  obtain ⟨m, P, hm⟩ := pushAll_next c kept (s := fclr c s) (b0 := []) rfl rfl (by simp [hkl])
  simp only [fclr_f_len, fclr_f_acc, hlen0] at hm
  have hpush : pushAll c b (fclr c s) = .next (raiseFault .overflow { fclr c s with
      f_buf := m, f_len := BitVec.ofNat 8 c.bufBytes
      f_acc := kept.foldl (crcStep c.profile) c.profile.init }) := by
    rw [hsplit, pushAll_append, hm, andThen]
    exact pushAll_full c _ rfl hlen hrest
  have hread : b.length + 1 = (c.bufBytes + 1) + (b.length - c.bufBytes) := by omega
  refine ⟨m, P, ?_⟩
  rw [frameOnBlock, hpush, andThen]
  obtain ⟨h, -⟩ | ⟨-, h, -⟩ | ⟨-, -, hf⟩ := fframe_cases c i (raiseFault .overflow { fclr c s with
    f_buf := m, f_len := BitVec.ofNat 8 c.bufBytes, f_acc := kept.foldl (crcStep c.profile) c.profile.init })
  · cases h
  · simp only [raiseFault_f_len, hlen] at h; omega
  · rw [hf, hread, readAll_add, readAll_next (c.bufBytes + 1) (b := kept) rfl
      (by rw [latchFrame_f_buf, latchFrame_f_len, raiseFault_f_buf, raiseFault_f_len, hlen]
          simpa [hkl] using P.bytes)
      (by rw [latchFrame_f_idx, latchFrame_f_len, raiseFault_f_len, hlen]; exact hi)
      (by rw [latchFrame_f_rp, latchFrame_f_len, raiseFault_f_len, hlen]; exact Nat.le_of_eq (Nat.zero_add _)),
      andThen]
    have hz : (0 : BitVec 9).toNat = 0 := rfl
    have hadd : (0 : BitVec 9) + BitVec.ofNat 9 (c.bufBytes + 1) = BitVec.ofNat 9 (c.bufBytes + 1) := BitVec.zero_add _
    rw [latchFrame_f_rp, hz, hadd, take_whole _ (by simp; omega), readAll_drained _ rfl (by rw [hrp]; exact congrArg (· + 1) hlen.symm) rfl]
    simp [latchFrame, fclr, crc, raiseFault]
    rfl

/-- Building a packet that does not fit completes from every state. -/
theorem buildPacket_overlong (c : Config) (b : List Byte) (s : State) (hlong : c.bufBytes < b.length) :
    ∃ m, Stored c [] (b.take c.bufBytes) s.f_buf m ∧ buildPacket c b s = .next { s with
      f_buf := m
      f_len := BitVec.ofNat 8 c.bufBytes
      f_acc := (b.take c.bufBytes).foldl (crcStep c.profile) c.profile.init
      f_phase := .emit
      f_idx := 1
      f_chk := crc c.profile (b.take c.bufBytes)
      f_rp := BitVec.ofNat 9 (c.bufBytes + 1)
      fault := true
      cause := if s.fault then s.cause else .overflow
      rsp := s.rsp ++
        ((b.take c.bufBytes).take 1 ++ [crc c.profile (b.take c.bufBytes)] ++ (b.take c.bufBytes).drop 1) ++
        List.replicate (b.length - c.bufBytes) 0x00
      fb := s.fb ++
        ((b.take c.bufBytes).take 1 ++ [crc c.profile (b.take c.bufBytes)] ++ (b.take c.bufBytes).drop 1) ++
        List.replicate (b.length - c.bufBytes) 0x00 } := by
  have hmin := c.bufMin
  have hone : (1 : BitVec 8).toNat = 1 := rfl
  obtain ⟨m, P, hm⟩ := frameOnBlock_overlong c b 1 s hlong (by rw [hone]; omega)
  have hidx : BitVec.ofNat 8 packetIndex = 1 := rfl
  rw [hone] at hm
  refine ⟨m, P, ?_⟩
  rw [buildPacket, hidx, hm, andThen, collectResponses]
  simp [appendFrameBuffer]

/-- All that building a packet does, from every state and whether or not b fits: with `kept` the bytes that find room,
`Frame(kept, 1)` comes back and then 0x00 for each byte that found none, and OVERFLOW is recorded if there was one. -/
theorem buildPacket_all (c : Config) (b : List Byte) (s : State) (hne : 1 ≤ b.length) :
    ∃ m kept, kept = b.take c.bufBytes ∧ Stored c [] kept s.f_buf m ∧ buildPacket c b s = .next { s with
      f_buf := m
      f_len := BitVec.ofNat 8 kept.length
      f_acc := kept.foldl (crcStep c.profile) c.profile.init
      f_phase := .emit
      f_idx := 1
      f_chk := crc c.profile kept
      f_rp := BitVec.ofNat 9 (kept.length + 1)
      fault := s.fault || decide (c.bufBytes < b.length)
      cause := if s.fault = true ∨ b.length ≤ c.bufBytes then s.cause else .overflow
      rsp := s.rsp ++ (kept.take 1 ++ [crc c.profile kept] ++ kept.drop 1) ++
        List.replicate (b.length - c.bufBytes) 0x00
      fb := s.fb ++ (kept.take 1 ++ [crc c.profile kept] ++ kept.drop 1) ++
        List.replicate (b.length - c.bufBytes) 0x00 } := by
  by_cases hfit : b.length ≤ c.bufBytes
  · obtain ⟨m, P, hm⟩ := buildPacket_next c b s hfit hne
    have hzero : b.length - c.bufBytes = 0 := by omega
    refine ⟨m, b, (List.take_of_length_le hfit).symm, P, ?_⟩
    rw [hm, hzero, decide_eq_false (by omega), Bool.or_false, if_pos (.inr hfit), List.replicate_zero, List.append_nil,
      List.append_nil]
  · obtain ⟨m, P, hm⟩ := buildPacket_overlong c b s (by omega)
    have hlen : (b.take c.bufBytes).length = c.bufBytes := by rw [List.length_take]; omega
    refine ⟨m, _, rfl, P, ?_⟩
    rw [hm, hlen, decide_eq_true (by omega), Bool.or_true]
    simp only [hfit, or_false]

end Sys2Proof.Machine
end

