-- ==== Sys2Proof/Laws/PerInstr.lean ====
section
/-! SUPPORT. One lemma per constructor of Instr: its encoding lies in its row of spec/opcode_table.json (width, match and
mask; for a packet row they apply to byte 0, and the width of a brightness row, 24 in the table, is that of its N). -/

namespace Sys2Proof.Laws

/-- A presented event has the width of a row and agrees with its match under its mask. -/
def rowHolds (e : HostEvent) (width : Nat) (pattern mask : Word16) : Prop :=
  match e with
  | .word w => width = 16 ∧ w &&& mask = pattern
  | .packet bytes => width = 8 * bytes.length ∧ bytes.head?.map (fun b => b.setWidth 16 &&& mask) = some pattern
  | .rst => False

end Sys2Proof.Laws

/-- The encoding of an instruction lies in its row of the opcode table. -/
def Sys2Proof.Laws.OpcodeRow.Statement (i : Sys2Proof.Instr) : Prop :=
  match i with
  | .nop => Sys2Proof.Laws.rowHolds (Sys2Proof.encode .nop) 16 0x0000 0xFFFF
  | .ginit => Sys2Proof.Laws.rowHolds (Sys2Proof.encode .ginit) 16 0x1000 0xFFFF
  | .gupd d => Sys2Proof.Laws.rowHolds (Sys2Proof.encode (.gupd d)) 16 0x1100 0xFF00
  | .gread => Sys2Proof.Laws.rowHolds (Sys2Proof.encode .gread) 16 0x1200 0xFFFF
  | .fclr => Sys2Proof.Laws.rowHolds (Sys2Proof.encode .fclr) 16 0x2000 0xFFFF
  | .fpush d => Sys2Proof.Laws.rowHolds (Sys2Proof.encode (.fpush d)) 16 0x2100 0xFF00
  | .fframe i => Sys2Proof.Laws.rowHolds (Sys2Proof.encode (.fframe i)) 16 0x2200 0xFF00
  | .fframee => Sys2Proof.Laws.rowHolds (Sys2Proof.encode .fframee) 16 0x2300 0xFFFF
  | .fread => Sys2Proof.Laws.rowHolds (Sys2Proof.encode .fread) 16 0x2400 0xFFFF
  | .flen => Sys2Proof.Laws.rowHolds (Sys2Proof.encode .flen) 16 0x2500 0xFFFF
  | .stat => Sys2Proof.Laws.rowHolds (Sys2Proof.encode .stat) 16 0x3000 0xFFFF
  | .pktStatus c p1 p2 => Sys2Proof.Laws.rowHolds (Sys2Proof.encode (.pktStatus c p1 p2)) 32 0x1F 0xFF
  | .pktBrightness c r =>
    Sys2Proof.Laws.rowHolds (Sys2Proof.encode (.pktBrightness c r)) (8 * (r.length + 2)) 0xAA 0xFF
  | .pktMonitor c r0 r1 r2 => Sys2Proof.Laws.rowHolds (Sys2Proof.encode (.pktMonitor c r0 r1 r2)) 40 0xAB 0xFF
  | .pktPid c r0 r1 k r2 r3 => Sys2Proof.Laws.rowHolds (Sys2Proof.encode (.pktPid c r0 r1 k r2 r3)) 56 0xAC 0xFF
  | .sentinel => Sys2Proof.Laws.rowHolds (Sys2Proof.encode .sentinel) 16 0xEE 0xFF

namespace Sys2Proof.Laws.OpcodeRow

theorem nop : Statement .nop := ⟨rfl, by decide⟩

theorem ginit : Statement .ginit := ⟨rfl, by decide⟩

theorem gupd (d : Byte) : Statement (.gupd d) := ⟨rfl, by revert d; decide +kernel⟩

theorem gread : Statement .gread := ⟨rfl, by decide⟩

theorem fclr : Statement .fclr := ⟨rfl, by decide⟩

theorem fpush (d : Byte) : Statement (.fpush d) := ⟨rfl, by revert d; decide +kernel⟩

theorem fframe (i : Byte) : Statement (.fframe i) := ⟨rfl, by revert i; decide +kernel⟩

theorem fframee : Statement .fframee := ⟨rfl, by decide⟩

theorem fread : Statement .fread := ⟨rfl, by decide⟩

theorem flen : Statement .flen := ⟨rfl, by decide⟩

theorem stat : Statement .stat := ⟨rfl, by decide⟩

theorem pktStatus (c p1 p2 : Byte) : Statement (.pktStatus c p1 p2) := ⟨rfl, rfl⟩

theorem pktBrightness (c : Byte) (r : List Byte) : Statement (.pktBrightness c r) := ⟨rfl, rfl⟩

theorem pktMonitor (c r0 r1 r2 : Byte) : Statement (.pktMonitor c r0 r1 r2) := ⟨rfl, rfl⟩

theorem pktPid (c r0 r1 k r2 r3 : Byte) : Statement (.pktPid c r0 r1 k r2 r3) := ⟨rfl, rfl⟩

theorem sentinel : Statement .sentinel := ⟨rfl, rfl⟩

end Sys2Proof.Laws.OpcodeRow
end

