-- ==== Sys2Proof/Laws/Step.lean ====
section
/-! SUPPORT. What a step can do, said once, at any configuration and at the machine's; and the packet rows through one
operation. -/

namespace Sys2Proof.Machine

/-- A word is no packet. -/
theorem decodeWord_ne_unknownPacket (w : Word16) : decodeWord w ≠ .unknownPacket := by
  intro h
  unfold decodeWord formatN at h
  split at h <;> (try split at h) <;> cases h

/-- A packet's bytes are no illegal word. -/
theorem decodePacket_ne_illegal (bytes : List Byte) (op : Byte) : decodePacket bytes ≠ .illegal op := by
  intro h
  unfold decodePacket at h
  split at h <;> (try split at h) <;> (try split at h) <;> (try split at h) <;> cases h

/-- A step's five ways, by the host's next event. -/
theorem takeEvent_cases (c : Config) (run : Instr → State → Host.Outcome State Fault Refusal) (s : State) :
    (s.cmd = [] ∧ takeEvent c run s = .next s) ∨
    (∃ rest, s.cmd = .rst :: rest ∧ takeEvent c run s = .next (assertReset c (setEvents rest s))) ∨
    (∃ e rest i, s.cmd = e :: rest ∧ decode e = .decoded (.instr i) ∧ takeEvent c run s = run i (setEvents rest s)) ∨
    (∃ w rest op, s.cmd = .word w :: rest ∧ decodeWord w = .illegal op ∧
      takeEvent c run s = .next (executeIllegal op (setEvents rest s))) ∨
    (∃ bytes rest, s.cmd = .packet bytes :: rest ∧ decodePacket bytes = .unknownPacket ∧
      takeEvent c run s = .refused .unknownPacket) := by
  rcases hc : s.cmd with _ | ⟨w | _ | bytes, rest⟩
  · exact .inl ⟨rfl, by simp [takeEvent, fetch, hc]⟩
  · cases hd : decodeWord w with
    | instr i =>
      exact .inr (.inr (.inl ⟨_, _, i, rfl, by rw [decode, hd], by simp [takeEvent, fetch, hc, decode, hd]⟩))
    | illegal op =>
      exact .inr (.inr (.inr (.inl ⟨_, _, op, rfl, hd, by simp [takeEvent, fetch, hc, decode, hd]⟩)))
    | unknownPacket => exact absurd hd (decodeWord_ne_unknownPacket w)
  · exact .inr (.inl ⟨_, rfl, by simp [takeEvent, fetch, hc, decode]⟩)
  · cases hd : decodePacket bytes with
    | instr i =>
      exact .inr (.inr (.inl ⟨_, _, i, rfl, by rw [decode, hd], by simp [takeEvent, fetch, hc, decode, hd]⟩))
    | illegal op => exact absurd hd (decodePacket_ne_illegal bytes op)
    | unknownPacket =>
      exact .inr (.inr (.inr (.inr ⟨_, _, rfl, hd, by simp [takeEvent, fetch, hc, decode, hd]⟩)))

/-- The same five ways for this machine's step. -/
theorem step_cases (s : State) :
    (s.cmd = [] ∧ step s = .next s) ∨
    (∃ rest, s.cmd = .rst :: rest ∧ step s = .next (assertReset block (setEvents rest s))) ∨
    (∃ e rest i, s.cmd = e :: rest ∧ decode e = .decoded (.instr i) ∧ step s = exec i (setEvents rest s)) ∨
    (∃ w rest op, s.cmd = .word w :: rest ∧ decodeWord w = .illegal op ∧
      step s = .next (executeIllegal op (setEvents rest s))) ∨
    (∃ bytes rest, s.cmd = .packet bytes :: rest ∧ decodePacket bytes = .unknownPacket ∧
      step s = .refused .unknownPacket) :=
  takeEvent_cases block exec s

/-- A packet row is building its pre-checksum buffer, which holds at least its opcode. -/
theorem execWith_packet (c : Config) {i : Instr} {b : List Byte} (h : preChecksum i = some b) (s : State) :
    execWith c i s = buildPacket c b s ∧ 1 ≤ b.length := by
  cases i <;> simp only [preChecksum, Option.some.injEq, reduceCtorEq] at h <;> subst h <;> exact ⟨rfl, by simp⟩

/-- The same for this machine's exec. -/
theorem exec_packet {i : Instr} {b : List Byte} (h : preChecksum i = some b) (s : State) :
    exec i s = buildPacket block b s ∧ 1 ≤ b.length := by
  cases i <;> simp only [preChecksum, Option.some.injEq, reduceCtorEq] at h <;> subst h <;> exact ⟨rfl, by simp⟩

/-- A row fits when its pre-checksum buffer does. -/
theorem fits_iff (c : Config) {i : Instr} {b : List Byte} (h : preChecksum i = some b) :
    fits c i = true ↔ b.length ≤ c.bufBytes := by
  simp [fits, h]

/-- Only a brightness row can lack room (R5: 6 is the longest of the others). -/
theorem fits_of_short (c : Config) {i : Instr} (h : ∀ k r, i = .pktBrightness k r → r.length ≤ 5) : fits c i = true := by
  have hmin := c.bufMin
  cases i
  case pktBrightness k r =>
    have := h k r rfl
    simp only [fits, preChecksum, List.length_cons, decide_eq_true_eq]
    omega
  all_goals simp only [fits, preChecksum, List.length_cons, List.length_nil, decide_eq_true_eq] <;> omega

end Sys2Proof.Machine
end

