-- ==== Sys2Proof/Laws/Run.lean ====
section
/-! SUPPORT. Runs (spec/70_reset_and_hazards.md R238): the model's runs are the host interface's, and what a launch state
holds. -/

namespace Sys2Proof.Machine

theorem runSteps_eq_run (n : Nat) (s : State) : runSteps n s = Host.Core.run core n s := by
  induction n generalizing s with
  | zero => rfl
  | succ n ih =>
    have hrun := Host.Core.run.eq_2 core s n
    have hstep : core.step s = step s := rfl
    rw [runSteps]
    cases h : step s with
    | next t => rw [hstep, h] at hrun; exact (ih t).trans hrun.symm
    | fault r => rw [hstep, h] at hrun; exact hrun.symm
    | refused r => rw [hstep, h] at hrun; exact hrun.symm

@[simp] theorem launch_cmd (es : List HostEvent) : (launch es).cmd = es := rfl
@[simp] theorem launch_rsp (es : List HostEvent) : (launch es).rsp = [] := rfl
@[simp] theorem launch_fault (es : List HostEvent) : (launch es).fault = false := rfl

/-- Executing some instructions and then others. -/
theorem runInstrs_append (a b : List Instr) (s : State) :
    runInstrs (a ++ b) s = andThen (runInstrs a s) (runInstrs b) := by
  induction a generalizing s with
  | nil => rfl
  | cons i a ih =>
    rw [List.cons_append, runInstrs, runInstrs]
    cases exec i s with
    | next t => exact ih t
    | fault r => rfl
    | refused r => rfl

/-- A run that has an observation is one that completes. -/
theorem observation_eq_some {es : List HostEvent} {o : List Byte × State} :
    observation es = some o ↔ runFromReset es = .next o.2 ∧ o.1 = o.2.rsp := by
  obtain ⟨bytes, t⟩ := o
  unfold observation
  cases runFromReset es <;> simp [eq_comm, and_comm]
  rintro rfl
  rfl

end Sys2Proof.Machine
end

