-- ==== Sys2Proof/Tests/Slice0.lean ====
section
/-! SUPPORT. Tests with expected values from spec/95_test_vectors.md or by hand from a rule, and a witness for each
statement's hypotheses. -/

namespace Sys2Proof.Machine

/-! ## Well-formedness: a row for each check, and what the check refuses -/

theorem test_wf_status : WellFormed (.pktStatus 0x94 0xF0 0x00) = true := by decide +kernel

theorem test_wf_refuses_status_payload : WellFormed (.pktStatus (crc profileDoc [0x1F, 0xF1, 0x00]) 0xF1 0x00) = false := by
  decide +kernel

theorem test_wf_refuses_pid_fixed_byte :
    WellFormed (.pktPid (crc profileDoc [0xAC, 0x11, 0x22, 0xDF, 0x33, 0x44]) 0x11 0x22 0xDF 0x33 0x44) = false := by
  decide +kernel

theorem test_wf_refuses_checksum : WellFormed (.pktBrightness 0xEB [0x42]) = false := by decide +kernel

theorem test_wf_refuses_overlong :
    WellFormed (.pktBrightness (crc profileDoc (0xAA :: List.replicate 255 0x00)) (List.replicate 255 0x00)) = false := by
  have h := block.bufMax
  have hf : fits block (.pktBrightness (crc profileDoc (0xAA :: List.replicate 255 0x00)) (List.replicate 255 0x00)) =
      false := by
    simp only [fits, preChecksum, List.length_cons, List.length_replicate, decide_eq_false_iff_not]
    omega
  rw [WellFormed, hf, Bool.and_false]

theorem test_wf_command : WellFormed (.fframe 0xFF) = true := by decide +kernel

/-! ## Decoding, by words written out bit by bit from spec/30_encoding.md R74 and the layouts R181 to R184, R188 -/

theorem test_decode_nop : decodeWord 0b0000000000000000 = .instr .nop := by decide +kernel

theorem test_decode_ginit : decodeWord 0b0001000000000000 = .instr .ginit := by decide +kernel

theorem test_decode_gupd : decodeWord 0b0001000110100101 = .instr (.gupd 0xA5) := by decide +kernel

theorem test_decode_gread : decodeWord 0b0001001000000000 = .instr .gread := by decide +kernel

theorem test_decode_fclr : decodeWord 0b0010000000000000 = .instr .fclr := by decide +kernel

theorem test_decode_fpush : decodeWord 0b0010000101011010 = .instr (.fpush 0x5A) := by decide +kernel

theorem test_decode_fframe : decodeWord 0b0010001010000001 = .instr (.fframe 0x81) := by decide +kernel

theorem test_decode_fframee : decodeWord 0b0010001100000000 = .instr .fframee := by decide +kernel

theorem test_decode_fread : decodeWord 0b0010010000000000 = .instr .fread := by decide +kernel

theorem test_decode_flen : decodeWord 0b0010010100000000 = .instr .flen := by decide +kernel

theorem test_decode_stat : decodeWord 0b0011000000000000 = .instr .stat := by decide +kernel

theorem test_decode_reserved : decodeWord 0b0001001100000000 = .illegal 0x13 := by decide +kernel

theorem test_decode_status : decodePacket [0x1F, 0x94, 0xF0, 0x00] = .instr (.pktStatus 0x94 0xF0 0x00) := by decide +kernel

theorem test_decode_brightness : decodePacket [0xAA, 0xEA, 0x42] = .instr (.pktBrightness 0xEA [0x42]) := by decide +kernel

/-- N = 2: four bytes are no status packet with this byte 0. -/
theorem test_decode_brightness_two :
    decodePacket [0xAA, 0x41, 0x42, 0x43] = .instr (.pktBrightness 0x41 [0x42, 0x43]) := by decide +kernel

theorem test_decode_monitor :
    decodePacket [0xAB, 0x32, 0x10, 0x20, 0x30] = .instr (.pktMonitor 0x32 0x10 0x20 0x30) := by decide +kernel

theorem test_decode_pid :
    decodePacket [0xAC, 0x9B, 0x11, 0x22, 0xDE, 0x33, 0x44] = .instr (.pktPid 0x9B 0x11 0x22 0xDE 0x33 0x44) := by
  decide +kernel

theorem test_decode_sentinel : decodePacket [0xEE, 0x00] = .instr .sentinel := by decide +kernel

theorem test_decode_no_packet : decodePacket [0xEE, 0x01] = .unknownPacket := by decide +kernel

/-- The table's numbering: a packet row's byte 0 is bits 7..0, and zeros fill up to its length. -/
theorem test_table_pid : decodeTableWord 56 0xAC = some (.pktPid 0 0 0 0 0 0) := by decide +kernel

theorem test_table_sentinel : decodeTableWord 16 0x00EE = some .sentinel := by decide +kernel

/-! ## The CRC (95_test_vectors.md sections 2.1, 2.4) -/

theorem test_crc_pid : crc profileDoc [0xAC, 0x11, 0x22, 0xDE, 0x33, 0x44] = 0x9B := by decide +kernel

theorem test_crc_step_trace : [0x12, 0x34, 0x56, 0x78].foldl (crcStep profileDoc) 0xFF = 0xA2 := by decide +kernel

theorem test_crc_reflected : crcR profileDoc [0x12, 0x34, 0x56, 0x78] = 0x45 := by decide +kernel

theorem test_crc_alternative : crc profile0x2F [0xAA, 0x42] = 0xCA := by decide +kernel

theorem test_table_entry : crcTable[0xFF]? = some 0x23 := by decide +kernel

theorem test_frame_middle : frame profileDoc [0x01, 0x02, 0x03] 2 = some [0x01, 0x02, 0x88, 0x03] := by decide +kernel

/-! ## Single steps (95_test_vectors.md sections 2.2, 2.6, 2.7, 2.8) -/

/-- The state of program P2 after command 5: the status packet framed at index 1, nothing read out. -/
def framed : State :=
  { State.reset with
    f_buf := [(0, 0x1F), (1, 0xF0), (2, 0x00)], f_len := 3, f_acc := 0x29, f_phase := .emit, f_idx := 1, f_chk := 0x94 }

/-- The same packet pushed, not yet framed. -/
def pushed : State :=
  { State.reset with f_buf := [(0, 0x1F), (1, 0xF0), (2, 0x00)], f_len := 3, f_acc := 0x29 }

/-- A full buffer in ACCUM, whatever `BUF_BYTES` is. -/
def full : State :=
  { State.reset with f_len := BitVec.ofNat 8 block.bufBytes }

theorem test_nop : exec .nop framed = .next framed := rfl

theorem test_ginit : exec .ginit { State.reset with g_acc := 0xC4 } = .next State.reset := by rfl

theorem test_gupd : exec (.gupd 0x00) State.reset = .next { State.reset with g_acc := 0xC4 } := by rfl

theorem test_gread : exec .gread { State.reset with g_acc := 0xE9 } = .next { State.reset with g_acc := 0xE9, rsp := [0x97] } := by
  rfl

theorem test_fclr_keeps_fault :
    exec .fclr { framed with fault := true, cause := .phase } =
      .next { State.reset with f_buf := framed.f_buf, fault := true, cause := .phase } := by rfl

theorem test_fpush :
    exec (.fpush 0x1F) State.reset = .next { State.reset with f_buf := [(0, 0x1F)], f_len := 1, f_acc := 0x53 } := by rfl

theorem test_fpush_full : exec (.fpush 0x00) full = .next { full with fault := true, cause := .overflow } := by
  have h : full.f_len.toNat = block.bufBytes := by
    have := block.bufMax
    simp only [full, BitVec.toNat_ofNat]
    omega
  simp [exec, execFpush, fpush, fullBit, h, faultingCommand, raiseFault, respondZeroIf, isRead]
  simp [full, State.reset, State.resetWith]

/-- PHASE comes before any range check (R203). -/
theorem test_fpush_phase_first :
    exec (.fpush 0x00) { full with f_phase := .emit } =
      .next { full with f_phase := .emit, fault := true, cause := .phase } := by rfl

theorem test_fframe : exec (.fframe 0x01) pushed = .next framed := by rfl

theorem test_fframe_bad_index : exec (.fframe 0x04) pushed = .next { pushed with fault := true, cause := .badIndex } := by
  rfl

theorem test_fframee :
    exec .fframee { State.reset with f_buf := [(0, 0xAA)], f_len := 1, f_acc := 0x73 } =
      .next { State.reset with
        f_buf := [(0, 0xAA)], f_len := 1, f_acc := 0x73, f_phase := .emit, f_idx := 1, f_chk := 0xCE } := by rfl

theorem test_fframee_twice : exec .fframee framed = .next { framed with fault := true, cause := .phase } := by rfl

theorem test_fread_checksum :
    exec .fread { framed with f_rp := 1 } = .next { framed with f_rp := 2, rsp := [0x94] } := by rfl

theorem test_fread_past_end :
    exec .fread { framed with f_rp := 4 } =
      .next { framed with f_rp := 4, fault := true, cause := .underflow, rsp := [0x00] } := by rfl

theorem test_flen : exec .flen framed = .next { framed with rsp := [0x03] } := by rfl

/-- Section 2.7: EMIT, drained, first fault UNDERFLOW. -/
theorem test_stat :
    statByte { block with bufBytes := 6, bufMin := by decide +kernel, bufMax := by decide +kernel }
      { framed with f_rp := 4, fault := true, cause := .underflow } = 0x37 := by decide +kernel

/-- Section 2.7: ACCUM, full, fault OVERFLOW, with `BUF_BYTES` = 6. -/
theorem test_stat_full :
    statByte { block with bufBytes := 6, bufMin := by decide +kernel, bufMax := by decide +kernel }
      { State.reset with f_len := 6, fault := true, cause := .overflow } = 0x4A := by decide +kernel

/-- Program P7's command 8, with `BUF_BYTES` = 6: the byte is lost. -/
theorem test_fpush_seventh (s : State) (h : s = { State.reset with f_len := 6 }) :
    fpush { block with bufBytes := 6, bufMin := by decide +kernel, bufMax := by decide +kernel } 0x07 s =
      .next { s with fault := true, cause := .overflow } := by subst h; rfl

/-- The next state an outcome holds, if it holds one. -/
def nextOf (o : Host.Outcome State Fault Refusal) : Option State :=
  match o with
  | .next t => some t
  | .fault _ => none
  | .refused _ => none

theorem test_status_packet :
    nextOf (exec (.pktStatus 0x94 0xF0 0x00) State.reset) =
      some { framed with f_rp := 4, rsp := [0x1F, 0x94, 0xF0, 0x00], fb := [0x1F, 0x94, 0xF0, 0x00] } := by
  decide +kernel

theorem test_brightness_packet :
    (nextOf (exec (.pktBrightness 0xEA [0x42]) framed)).map (·.fb) = some [0xAA, 0xEA, 0x42] := by decide +kernel

theorem test_brightness_packet_two :
    (nextOf (exec (.pktBrightness 0x41 [0x42, 0x43]) framed)).map (fun t => (t.fb, t.f_len)) =
      some ([0xAA, 0x41, 0x42, 0x43], 3) := by decide +kernel

theorem test_monitor_packet :
    (nextOf (exec (.pktMonitor 0x32 0x10 0x20 0x30) framed)).map (·.fb) = some [0xAB, 0x32, 0x10, 0x20, 0x30] := by
  decide +kernel

theorem test_pid_packet :
    (nextOf (exec (.pktPid 0x9B 0x11 0x22 0xDE 0x33 0x44) framed)).map (fun t => (t.fb, t.f_acc)) =
      some ([0xAC, 0x9B, 0x11, 0x22, 0xDE, 0x33, 0x44], 0xD9) := by decide +kernel

theorem test_sentinel : exec .sentinel framed = .next { framed with fb := [0xEE, 0x00] } := by rfl

/-- Section 2.2: an illegal word of a read-type opcode (program P6, command 1). -/
theorem test_step_illegal_read :
    step { State.reset with cmd := [.word 0x1201] } =
      .next { State.reset with fault := true, cause := .illegal, rsp := [0x00] } := by rfl

/-- R201: a later fault keeps the first cause, and an undefined opcode gives no response. -/
theorem test_step_illegal_later :
    step { State.reset with cmd := [.word 0x4000], fault := true, cause := .badIndex } =
      .next { State.reset with fault := true, cause := .badIndex } := by rfl

theorem test_step_reset :
    step { framed with cmd := [.rst], g_acc := 0x00, fault := true, cause := .phase, rsp := [0x1F] } =
      .next { State.reset with rsp := [0x1F] } := by rfl

/-! ## Other configurations (R21, 95_test_vectors.md section 2.4) -/

/-- Under PROFILE_0x2F the CRC of the empty sequence is 0x00. -/
theorem test_step_alternative_profile :
    (commandStep { block with profile := profile0x2F } (State.resetWith { block with profile := profile0x2F })
      0x1200).map (·.2) = some (some 0x00) := by rfl

/-- Program P7's command 8, with `BUF_BYTES` = 6. -/
theorem test_step_small_buffer :
    (commandStep { block with bufBytes := 6, bufMin := by decide +kernel, bufMax := by decide +kernel }
      { State.reset with f_len := 6 } 0x2107).map (fun r => (r.1.cause, r.2)) = some (.overflow, none) := by rfl

/-! ## Runs, splitting, the emitter (R187, R188, R190, R238) -/

/-- R238: a reset after the last fault, so `fault` = 0 at the end is not "no fault recorded". -/
theorem test_reset_hides_no_fault :
    resetAfterLastFault 3 (launch [.word 0x4000, .rst, .word 0x0000]) = true ∧
    (nextOf (runFromReset [.word 0x4000, .rst, .word 0x0000])).map (·.fault) = some false := by decide +kernel

/-- The last fault comes after the reset. -/
theorem test_fault_after_reset :
    resetAfterLastFault 3 (launch [.word 0x4000, .rst, .word 0x2400]) = false ∧
    (observation [.word 0x4000, .rst, .word 0x2400]).map (fun o => (o.1, o.2.fault)) = some ([0x00], true) := by
  decide +kernel

theorem test_after_last_reset :
    afterLastReset [.word 0x4000, .rst, .word 0x1000, .rst, .word 0x2400] = [.word 0x2400] ∧
    afterLastReset [.word 0x4000] = [.word 0x4000] := by decide +kernel

/-- Bytes that end inside a packet (log entry 12). -/
theorem test_split_truncated : splitPackets 1 2 [0xAA, 0xEA, 0x42, 0x1F, 0x94] = none := by decide +kernel

/-- With N = 2 a brightness packet is four bytes. -/
theorem test_split_two :
    splitPackets 2 2 [0xAA, 0x41, 0x42, 0x43, 0x1F, 0x94, 0xF0, 0x00] =
      some [[0xAA, 0x41, 0x42, 0x43], [0x1F, 0x94, 0xF0, 0x00]] := by decide +kernel

/-- Three rows over two writes, the first of two rows. -/
theorem test_split_writes :
    splitWrites 1 (fun _ => 1) [.sentinel, .nop, .stat] = [[.sentinel, .nop], [.stat]] := by decide +kernel

theorem test_emitter_loop :
    emitterLoop [⟨0x42, (0x10, 0x20, 0x30), (0x11, 0x22, 0x33, 0x44)⟩] =
      [.write [.pktStatus 0x94 0xF0 0x00, .pktBrightness 0xEA [0x42], .pktMonitor 0x32 0x10 0x20 0x30,
        .pktPid 0x9B 0x11 0x22 0xDE 0x33 0x44], .pause 50] := by decide +kernel

/-! ## The assembler (R79, R80) -/

theorem test_assemble_comment :
    assembleLine ['G', 'U', 'P', 'D', ' ', '0', 'x', '3', '1', ' ', ' ', ';', ' ', '0', 'x', '1'] = .ok [.gupd 0x31] := by
  decide +kernel

theorem test_assemble_frame :
    assembleLine ['F', 'R', 'A', 'M', 'E', ' ', '0', 'x', '1', 'F', ',', ' ', '0', 'x', 'f', '0', ' ', '@', ' ', '1'] =
      .ok [.fclr, .fpush 0x1F, .fpush 0xF0, .fframe 0x01, .fread, .fread, .fread] := by decide +kernel

theorem test_assemble_range :
    assembleLine ['F', 'F', 'R', 'A', 'M', 'E', ' ', '2', '5', '6'] = .error .operandRange := by decide +kernel

/-! ## Witnesses: for each statement's hypotheses, values that meet them together -/

theorem full_len : full.f_len.toNat = block.bufBytes := by
  have := block.bufMax
  simp only [full, BitVec.toNat_ofNat]
  omega

theorem framed_inv : Inv framed :=
  ⟨by decide +kernel, by decide +kernel, by decide +kernel, ⟨[0x1F, 0xF0, 0x00], by decide +kernel, by decide +kernel, fun _ => by decide +kernel⟩, by decide +kernel, by decide +kernel⟩

theorem witness_EncodeInvertsDecode :
    decode (.word 0x11FF) = .decoded (.instr (.gupd 0xFF)) ∧
    decode (.packet [0xEE, 0x00]) = .decoded (.instr .sentinel) := by decide +kernel

theorem witness_CommandWordTable : decodeWord 0x22FF = .instr (.fframe 0xFF) := by decide +kernel

/-- Both kinds of illegal word, at the ends of their ranges. -/
theorem witness_IllegalWordsRecordIllegal :
    let known : List Byte := [0x00, 0x10, 0x11, 0x12, 0x20, 0x21, 0x22, 0x23, 0x24, 0x25, 0x30]
    let needZero : List Byte := [0x00, 0x10, 0x12, 0x20, 0x23, 0x24, 0x25, 0x30]
    ({ framed with cmd := [.word 0xFFFF] } : State).cmd = .word 0xFFFF :: [] ∧ opOf 0xFFFF ∉ known ∧
    opOf 0x0100 ∉ known ∧ opOf 0x0001 ∈ needZero ∧ argOf 0x0001 ≠ 0x00 ∧ opOf 0x30FF ∈ needZero ∧ argOf 0x30FF ≠ 0x00 := by
  decide +kernel

theorem witness_StepRunsDecodedInstruction :
    ({ framed with cmd := [.word 0x2400, .rst] } : State).cmd = .word 0x2400 :: [.rst] ∧
    decode (.word 0x2400) = .decoded (.instr .fread) ∧ State.reset.cmd = [] := by decide +kernel

theorem witness_UnknownPacketIsRefused :
    ({ framed with cmd := [.packet [0x42]] } : State).cmd = .packet [0x42] :: [] ∧
    ∀ i, encode i ≠ .packet [0x42] := by
  refine ⟨rfl, fun i => ?_⟩
  cases i <;> simp [encode]

theorem witness_AssemblerReadsItsLines :
    asmLine (.fframe 0xFF) = some ['F', 'F', 'R', 'A', 'M', 'E', ' ', '0', 'x', 'F', 'F'] ∧
    asmLine .nop = some ['N', 'O', 'P'] := by decide +kernel

theorem witness_ReflectReversesBits : 0 < 8 ∧ 7 < 8 := by decide +kernel

theorem witness_ReflectedFormAgrees : profileDoc.refin = true ∧ profileDoc.refout = true := by decide +kernel

/-- The framing function's two clauses, at the boundary of the index. -/
theorem witness_FrameFunctionProperties :
    3 ≤ ([0x1F, 0xF0, 0x00] : List Byte).length ∧ 0 ≤ ([] : List Byte).length ∧
    ([0x1F, 0xF0, 0x00] : List Byte).length < 4 := by decide +kernel

/-- `OutByte`: the last position, and the latched checksum with its frame. -/
theorem witness_OutByteReadsFrame :
    framed.f_buf.firstBytes framed.f_len.toNat = some [0x1F, 0xF0, 0x00] ∧ framed.f_idx.toNat ≤ framed.f_len.toNat ∧
    3 ≤ framed.f_len.toNat ∧ framed.f_chk = crc block.profile [0x1F, 0xF0, 0x00] ∧
    frame block.profile [0x1F, 0xF0, 0x00] framed.f_idx.toNat = some [0x1F, 0x94, 0xF0, 0x00] := by decide +kernel

/-- For the statements of GINIT, GREAD, FCLR, FFRAMEE, FREAD, FLEN, NOP and STAT: a nonzero operand byte of a format-N
word. -/
theorem witness_NonzeroOperandIsIllegal :
    (0x01 : Byte) ≠ 0x00 ∧
    ({ framed with cmd := [.word (wordOf 0x12 0x01)] } : State).cmd = .word (wordOf 0x12 0x01) :: [] := by decide +kernel

theorem witness_GinitCommand :
    exec .ginit framed = .next { framed with g_acc := block.profile.init } ∧ framed.g_acc = 0xFF :=
  ⟨rfl, by decide +kernel⟩

theorem witness_GeneratorStreamLaw :
    Inv framed ∧ ∀ i ∈ ([.gupd 0x31, .fread, .fpush 0x00, .stat] : List Instr), isCommand i = true ∧ i ≠ .ginit :=
  ⟨framed_inv, by decide +kernel⟩

theorem witness_FclrCommand :
    (∃ t, exec .fclr framed = .next t) ∧ framed.fault = false ∧ framed.cause = .none := ⟨⟨_, rfl⟩, rfl, rfl⟩

/-- FPUSH's three clauses: EMIT; ACCUM and full; ACCUM with one byte of room. -/
theorem witness_FpushCommand :
    framed.f_phase = .emit ∧ (full.f_phase = .accum ∧ full.f_len.toNat = block.bufBytes) ∧
    ∃ s : State, s.f_phase = .accum ∧ s.f_len.toNat + 1 = block.bufBytes := by
  refine ⟨rfl, ⟨rfl, full_len⟩, { State.reset with f_len := BitVec.ofNat 8 (block.bufBytes - 1) }, rfl, ?_⟩
  have h1 := block.bufMin
  have h2 := block.bufMax
  simp only [BitVec.toNat_ofNat]
  omega

/-- FFRAME's clauses: EMIT; the first index out of range; the last one in range. -/
theorem witness_FframeCommand :
    framed.f_phase = .emit ∧ pushed.f_phase = .accum ∧ pushed.f_len.toNat < (0x04 : Byte).toNat ∧
    (0x03 : Byte).toNat ≤ pushed.f_len.toNat ∧ exec (.fframe 0x01) pushed = .next framed :=
  ⟨by decide +kernel, by decide +kernel, by decide +kernel, by decide +kernel, rfl⟩

theorem witness_FframeeCommand : framed.f_phase = .emit ∧ pushed.f_phase = .accum := by decide +kernel

/-- FREAD's clauses: ACCUM; all read; the last byte still to read. -/
theorem witness_FreadCommand :
    pushed.f_phase = .accum ∧ ({ framed with f_rp := 4 } : State).f_rp.toNat = framed.f_len.toNat + 1 ∧
    framed.f_phase = .emit ∧ framed.f_buf.firstBytes framed.f_len.toNat = some [0x1F, 0xF0, 0x00] ∧
    framed.f_idx.toNat ≤ framed.f_len.toNat ∧
    ({ framed with f_rp := 3 } : State).f_rp.toNat ≤ framed.f_len.toNat := by decide +kernel

/-- The framing law with generator commands, STAT and NOP interleaved, at the last index; and with FFRAMEE. -/
theorem witness_FramingLaw :
    framed.fault = false ∧ ([0xAA] : List Byte).length ≤ block.bufBytes ∧
    (0x01 : Byte).toNat ≤ ([0xAA] : List Byte).length ∧
    (∀ j ∈ ([.gupd 0x31, .fclr, .stat, .fpush 0xAA, .gread, .fframe 0x01, .fread, .nop, .fread] : List Instr),
      isCommand j = true) ∧
    ([.gupd 0x31, .fclr, .stat, .fpush 0xAA, .gread, .fframe 0x01, .fread, .nop, .fread] : List Instr).filter isFramer =
      pseudoFrame [0xAA] 0x01 ∧
    ([.fclr, .ginit, .fpush 0xAA, .fframee, .fread, .fread] : List Instr).filter isFramer = pseudoFramee [0xAA] := by
  decide +kernel

theorem witness_FramesAreIndependent :
    let u : State := { State.reset with f_buf := [(0, 0x55)], f_phase := .emit, f_chk := 0x12 }
    u = { State.reset with f_buf := u.f_buf, f_len := u.f_len, f_acc := u.f_acc, f_phase := u.f_phase,
                           f_idx := u.f_idx, f_chk := u.f_chk, f_rp := u.f_rp } ∧
    ∃ t, runInstrs [.fclr, .fpush 0x31] State.reset = .next t :=
  ⟨rfl, _, rfl⟩

/-- P4's state: drained, PHASE recorded, room in the buffer. -/
theorem witness_StatCommand :
    let s : State := { framed with f_rp := 4, fault := true, cause := .phase }
    s.f_phase = .emit ∧ s.fault = true ∧ s.cause = .phase ∧ s.f_rp.toNat = s.f_len.toNat + 1 ∧
      s.f_len.toNat < block.bufBytes := by decide +kernel

/-- Every cause of the table is recorded somewhere, and somewhere none is. -/
theorem witness_FaultTable :
    faultCause (.fpush 0x00) framed = some .phase ∧ faultCause (.fpush 0x00) full = some .overflow ∧
    faultCause (.fframe 0x04) pushed = some .badIndex ∧ faultCause .fread { framed with f_rp := 4 } = some .underflow ∧
    faultCause .fread framed = none ∧ fits block .fread = true ∧ (∃ t, exec .fread framed = .next t) ∧
    ({ framed with cmd := [.word 0x2401] } : State).cmd = .word 0x2401 :: [] ∧ ∀ i, decodeWord 0x2401 ≠ .instr i := by
  have hd : decodeWord 0x2401 = .illegal 0x24 := by decide +kernel
  have hp : full.f_phase = .accum := rfl
  exact ⟨rfl, by simp [faultCause, full_len, hp], rfl, rfl, rfl, rfl, ⟨_, rfl⟩, rfl, fun i => by rw [hd]; exact Decoded.noConfusion⟩

theorem witness_FaultIsSticky :
    let s : State := { framed with fault := true, cause := .phase, cmd := [.word 0x2000] }
    (∃ t, step s = .next t) ∧ s.fault = true ∧ (∀ rest, s.cmd ≠ .rst :: rest) ∧
      Instr.fread ≠ .stat ∧ ∃ t, exec .fread s = .next t :=
  ⟨⟨_, rfl⟩, rfl, by simp, by decide +kernel, _, rfl⟩

theorem witness_ResponsesFollowOpcodes :
    faultCause .fread pushed = some .phase ∧ decodeWord 0x2401 = .illegal (opOf 0x2401) ∧
    decodeWord 0x4000 = .illegal (opOf 0x4000) ∧
    ∃ t, step { framed with cmd := [.word 0x2400] } = .next t :=
  ⟨rfl, by decide +kernel, by decide +kernel, _, rfl⟩

theorem witness_ResetState :
    let s : State := { framed with fault := true, cause := .phase, cmd := [.rst, .word 0x0000] }
    s.cmd = .rst :: [.word 0x0000] ∧ s.fault = true ∧ ∃ t, step s = .next t ∧ t.fault = false :=
  ⟨rfl, rfl, _, rfl, rfl⟩

theorem witness_InvariantKeptByStep : Inv framed ∧ ∃ t, step framed = .next t := ⟨framed_inv, _, rfl⟩

theorem witness_ReachableStatesMeetInvariant :
    ∃ t, Host.Core.run core 2 { State.reset with cmd := [.word 0x1131, .word 0x4000] } = .next t := ⟨_, rfl⟩

theorem witness_EveryEventCompletes :
    Inv framed ∧ ∀ bytes rest, framed.cmd = .packet bytes :: rest → decodePacket bytes ≠ .unknownPacket :=
  ⟨framed_inv, fun _ _ h => by cases h⟩

theorem witness_RegisterWriters :
    (∃ t, exec .fread framed = .next t) ∧ isGenerator .fread = false ∧ isCommand .fread = true ∧
    preChecksum .fread = none ∧ ∃ t, exec .sentinel framed = .next t :=
  ⟨⟨_, rfl⟩, rfl, rfl, rfl, _, rfl⟩

theorem witness_StoresStayInPlace :
    (∃ t, exec (.fpush 0x07) pushed = .next t) ∧ 4 ≠ pushIndex pushed ∧ (∃ t, exec .flen framed = .next t) ∧
    preChecksum .flen = none ∧ preChecksum (.pktBrightness 0xEA [0x42]) = some [0xAA, 0x42] ∧
    ∃ t, exec (.pktBrightness 0xEA [0x42]) framed = .next t := by
  have hb : ([0xAA, 0x42] : List Byte).length ≤ block.bufBytes := by decide +kernel
  have hp := exec_packet (i := .pktBrightness 0xEA [0x42]) rfl framed
  obtain ⟨m, -, hm⟩ := buildPacket_next block [0xAA, 0x42] framed hb hp.2
  exact ⟨⟨_, rfl⟩, by decide +kernel, ⟨_, rfl⟩, rfl, rfl, _, hp.1.trans hm⟩

theorem witness_UnitsAreIndependent :
    isGenerator .fread = false ∧ (∃ t, exec .fread framed = .next t) ∧ isGenerator (.gupd 0x31) = true ∧
    (∃ t, exec (.gupd 0x31) State.reset = .next t) ∧
    framed = { State.reset with
      f_buf := framed.f_buf
      f_len := framed.f_len
      f_acc := framed.f_acc
      f_phase := framed.f_phase
      f_idx := framed.f_idx
      f_chk := framed.f_chk
      f_rp := framed.f_rp } :=
  ⟨rfl, ⟨_, rfl⟩, rfl, ⟨_, rfl⟩, rfl⟩

theorem witness_ReadSideEffects :
    (∃ t, exec .fread framed = .next t) ∧ faultCause .fread framed = none := ⟨⟨_, rfl⟩, rfl⟩

/-- A brightness row no `f_buf` has room for. -/
def overlong : Instr := .pktBrightness 0x00 (List.replicate 255 0x00)

theorem overlong_length : block.bufBytes < (0xAA :: List.replicate 255 (0x00 : Byte)).length := by
  have := block.bufMax
  rw [List.length_cons, List.length_replicate]
  omega

/-- A row at the lower bound of `BUF_BYTES`, and one that does not fit. -/
theorem witness_PacketRowsBuildFrames :
    (preChecksum (.pktPid 0x00 0x11 0x22 0xDE 0x33 0x44) = some [0xAC, 0x11, 0x22, 0xDE, 0x33, 0x44] ∧
      ([0xAC, 0x11, 0x22, 0xDE, 0x33, 0x44] : List Byte).length ≤ block.bufBytes) ∧
    preChecksum overlong = some (0xAA :: List.replicate 255 0x00) ∧
    block.bufBytes < (0xAA :: List.replicate 255 (0x00 : Byte)).length :=
  ⟨by decide +kernel, rfl, overlong_length⟩

theorem witness_WellFormedRowsEmitTheirBytes :
    WellFormed (.pktMonitor 0x32 0x10 0x20 0x30) = true ∧
    encode (.pktMonitor 0x32 0x10 0x20 0x30) = .packet [0xAB, 0x32, 0x10, 0x20, 0x30] ∧
    WellFormed .sentinel = true ∧ encode .sentinel = .packet [0xEE, 0x00] := by decide +kernel

theorem witness_ConfigurationParameters :
    preChecksum (.pktBrightness 0xEA [0x42]) = some [0xAA, 0x42] ∧
    ∀ c r, Instr.pktBrightness 0xEA [0x42] = .pktBrightness c r → r.length = 1 :=
  ⟨rfl, fun c r h => by cases h; rfl⟩

theorem witness_RunsHaveObservations : isRun [.word 0x4000, .rst, .word 0x2400] = true ∧ isRun [] = true := by
  decide +kernel

/-- One run with a reset after its last fault, and one without a reset. -/
theorem witness_NoFaultRecordedMeansNoFault :
    (∃ t, runFromReset [.word 0x4000, .rst, .word 0x1200] = .next t) ∧
    (∃ t, runFromReset [.word 0x1200] = .next t) ∧ (.rst : HostEvent) ∉ [HostEvent.word 0x1200] :=
  ⟨⟨_, rfl⟩, ⟨_, rfl⟩, by decide +kernel⟩

/-- The init phase has a first act. -/
theorem witness_InitWritePrecedesLoop : ∃ a, initPhase[0]? = some a := by
  obtain ⟨more, h⟩ := splitWrites_head Config.freeInitWrites Config.freeInitSizes .sentinel
    (List.ofFn (initPacket ∘ Config.freeInitOrder))
  refine ⟨.write (.sentinel :: more), ?_⟩
  cases hw : initWrites with
  | nil => rw [initWrites, initRows] at hw; rw [hw] at h; cases h
  | cons w ws =>
    rw [initWrites, initRows] at hw
    rw [hw, List.head?_cons, Option.some.injEq] at h
    rw [initPhase, initWrites, initRows, hw, h]
    cases ws <;> rfl

theorem witness_FaultTable_overlong : fits block overlong = false := by
  have h := overlong_length
  simp only [overlong, fits, preChecksum, decide_eq_false_iff_not]
  omega

theorem witness_StepTakesConfiguration :
    ∃ t r, commandStep { block with profile := profile0x2F } framed 0x3000 = some (t, r) := ⟨_, _, rfl⟩

theorem witness_InvariantAtEveryConfiguration : InvAt block framed := framed_inv

theorem witness_PacketLengths :
    preChecksum (.pktBrightness 0x00 []) = some [0xAA] ∧ encode (.pktBrightness 0x00 []) = .packet [0xAA, 0x00] ∧
    ∀ c r, Instr.pktBrightness 0x00 [] = .pktBrightness c r → r.length = 0 :=
  ⟨rfl, rfl, fun c r h => by cases h; rfl⟩

/-- A row, one payload byte, and the longest N that fits every `BUF_BYTES`. -/
theorem witness_FrameBufferIsBuilt :
    preChecksum (.pktStatus 0x94 0xF0 0x00) = some [0x1F, 0xF0, 0x00] ∧ ([0x42] : List Byte).length = 1 ∧
    ([0x01, 0x02, 0x03, 0x04, 0x05] : List Byte).length + 1 ≤ block.bufBytes := by decide +kernel

end Sys2Proof.Machine
end

section
/-! PROOF. The status register (spec/10_state.md R33). -/

namespace Sys2Proof.Machine

/-! ## STAT bit by bit (spec/10_state.md R33) -/

theorem flagByte_getElem (b : Bool) (k : Nat) (hk : k < 8) : (flagByte b)[k] = (decide (k = 0) && b) := by
  cases b <;> simp [flagByte, BitVec.getElem_one]

theorem statByte_phase (c : Config) (s : State) : (statByte c s).getLsbD 0 = phaseBit s := by
  simp [statByte, flagByte_getElem]

theorem statByte_fault (c : Config) (s : State) : (statByte c s).getLsbD 1 = s.fault := by
  simp [statByte, flagByte_getElem]

theorem statByte_cause (c : Config) (s : State) : (statByte c s).extractLsb' 2 3 = causeCode s.cause := by
  ext k hk
  interval_cases k <;> simp [statByte, flagByte_getElem]

theorem statByte_done (c : Config) (s : State) : (statByte c s).getLsbD 5 = doneBit s := by
  simp [statByte, flagByte_getElem]

theorem statByte_full (c : Config) (s : State) : (statByte c s).getLsbD 6 = fullBit c s := by
  simp [statByte, flagByte_getElem]

theorem statByte_top (c : Config) (s : State) : (statByte c s).getLsbD 7 = false := by
  simp [statByte, flagByte_getElem]

theorem phaseBit_iff (s : State) : phaseBit s = true ↔ s.f_phase = .emit := by simp [phaseBit]

theorem doneBit_iff (s : State) :
    doneBit s = true ↔ s.f_phase = .emit ∧ s.f_rp.toNat = s.f_len.toNat + 1 := by
  simp [doneBit, drained, phaseBit_iff]

theorem fullBit_iff (c : Config) (s : State) : fullBit c s = true ↔ s.f_len.toNat = c.bufBytes := by simp [fullBit]

/-- No `f_buf` is empty and full at once (R5). -/
theorem fullBit_resetWith (c : Config) : fullBit c (State.resetWith c) = false := by
  have hlen : (State.resetWith c).f_len.toNat = 0 := rfl
  have hmin := c.bufMin
  rw [fullBit, hlen, decide_eq_false (by omega)]

theorem statByte_resetWith (c : Config) : statByte c (State.resetWith c) = 0x00 := by
  have hphase : phaseBit (State.resetWith c) = false := rfl
  have hfault : (State.resetWith c).fault = false := rfl
  have hcause : causeCode (State.resetWith c).cause = 0 := rfl
  rw [statByte, doneBit, fullBit_resetWith, hphase, hfault, hcause, Bool.false_and]
  decide

/-- Settles O30: each bit comes from one term of R33's formula. -/
theorem statusRegisterBits : Obligations.StatusRegisterBits := by
  refine ⟨fun s => ⟨?_, statByte_fault block s, statByte_cause block s, ?_, ?_, statByte_top block s⟩,
    statByte_resetWith block⟩
  · rw [statByte_phase, phaseBit_iff]
  · rw [statByte_done, doneBit_iff]
  · rw [statByte_full, fullBit_iff]

end Sys2Proof.Machine
end

section
/-! PROOF. The invariant of spec/10_state.md R36, at every configuration, and every state reached from reset. -/

namespace Sys2Proof.Machine

/-! ## The checksum's last step loses nothing (spec/40_crc_generator.md R100, R102) -/

theorem refl8_getLsbD (x : Byte) {k : Nat} (hk : k < 8) : (refl8 x).getLsbD k = x.getLsbD (7 - k) := by
  rw [refl8, BitVec.getLsbD_ofBoolListLE]
  interval_cases k <;> rfl

theorem refl8_refl8 (x : Byte) : refl8 (refl8 x) = x := by
  refine BitVec.eq_of_getLsbD_eq fun k hk => ?_
  rw [refl8_getLsbD _ hk, refl8_getLsbD _ (by omega), Nat.sub_sub_self (by omega)]

/-- A checksum determines the register it was made from. -/
theorem crcFinal_injective (p : Profile) : Function.Injective (crcFinal p) := by
  intro r r' h
  have hrefl := (BitVec.xor_left_inj p.xorout).1 h
  by_cases hout : p.refout = true
  · rw [if_pos hout, if_pos hout] at hrefl
    rw [← refl8_refl8 r, hrefl, refl8_refl8]
  · rwa [if_neg hout, if_neg hout] at hrefl

/-! ## What each operation keeps of the invariant (spec/10_state.md R36) -/

/-- The invariant does not speak of unit G, the ports or the host's side. -/
theorem InvAt.congr {c : Config} {s t : State} (h : InvAt c s)
    (heq : t = { s with g_acc := t.g_acc, cmd := t.cmd, rsp := t.rsp, fb := t.fb }) : InvAt c t := by
  rw [heq]
  exact ⟨h.bufWf, h.bufBelow, h.lenBound, h.frameBytes, h.accumPointer, h.faultCauseAgree⟩

/-- Item 2 in the domain of the register: unit F has absorbed exactly the bytes stored. -/
theorem InvAt.f_acc_eq {c : Config} {s : State} (h : InvAt c s) {b : List Byte}
    (hb : s.f_buf.firstBytes s.f_len.toNat = some b) : s.f_acc = b.foldl (crcStep c.profile) c.profile.init := by
  obtain ⟨b', hb', hcrc, -⟩ := h.frameBytes
  obtain rfl : b' = b := Option.some.inj (hb'.symm.trans hb)
  exact crcFinal_injective c.profile hcrc

theorem InvAt.resetWith (c : Config) : InvAt c (State.resetWith c) where
  bufWf := rfl
  bufBelow := rfl
  lenBound := Nat.zero_le _
  frameBytes := ⟨[], rfl, rfl, nofun⟩
  accumPointer _ := rfl
  faultCauseAgree := ⟨fun _ => rfl, fun _ => rfl⟩

theorem InvAt.assertReset (c : Config) (s : State) : InvAt c (assertReset c s) :=
  (InvAt.resetWith c).congr rfl

/-- After a fault the cause is the first fault's, and that is a cause (R201). -/
theorem InvAt.raised_cause_ne {c : Config} {s : State} (h : InvAt c s) {code : Cause} (hcode : code ≠ .none) :
    (if s.fault then s.cause else code) ≠ .none := by
  cases hf : s.fault
  · simpa using hcode
  · simpa [hf] using h.faultCauseAgree

theorem InvAt.faultingCommand {c : Config} {s : State} (h : InvAt c s) (op : Byte) {code : Cause}
    (hcode : code ≠ .none) : InvAt c (faultingCommand op code s) := by
  refine ⟨h.bufWf, h.bufBelow, h.lenBound, h.frameBytes, h.accumPointer, ?_⟩
  rw [faultingCommand_fault, faultingCommand_cause]
  exact iff_of_false (by decide) (h.raised_cause_ne hcode)

theorem InvAt.fclr {c : Config} {s : State} (h : InvAt c s) : InvAt c (fclr c s) where
  bufWf := h.bufWf
  bufBelow := h.bufBelow
  lenBound := Nat.zero_le _
  frameBytes := ⟨[], rfl, rfl, nofun⟩
  accumPointer _ := rfl
  faultCauseAgree := h.faultCauseAgree

/-- A latched frame has its index within the bytes stored, its pointer at the start, and their checksum. -/
theorem InvAt.latchFrame {c : Config} {s : State} (h : InvAt c s) {idx : BitVec 8}
    (hidx : idx.toNat ≤ s.f_len.toNat) : InvAt c (latchFrame c idx s) := by
  obtain ⟨b, hb, hcrc, -⟩ := h.frameBytes
  exact ⟨h.bufWf, h.bufBelow, h.lenBound, ⟨b, hb, hcrc, fun _ => ⟨hidx, Nat.zero_le _, hcrc⟩⟩,
    nofun, h.faultCauseAgree⟩

/-- Where there is room, a push stores one byte more and absorbs it. -/
theorem InvAt.push {c : Config} {s : State} (h : InvAt c s) (d : Byte) (hp : s.f_phase = .accum)
    (hroom : s.f_len.toNat < c.bufBytes) : InvAt c { s with
      f_buf := s.f_buf.write s.f_len.toNat d, f_len := s.f_len + 1, f_acc := crcStep c.profile s.f_acc d } := by
  obtain ⟨b, hb, -⟩ := h.frameBytes
  have hlen := f_len_succ c hroom
  refine ⟨Memory.wf_write _ _ _ h.bufWf, Memory.below_write _ _ _ _ h.bufBelow hroom, ?_, ⟨b ++ [d], ?_, ?_, ?_⟩,
    h.accumPointer, h.faultCauseAgree⟩
  · rw [hlen]; exact hroom
  · rw [hlen]; exact Memory.firstBytes_write hb d
  · rw [h.f_acc_eq hb, crc, List.foldl_append]; rfl
  · intro he; rw [hp] at he; cases he

theorem InvAt.fpush {c : Config} {s t : State} (h : InvAt c s) {d : Byte} (ht : fpush c d s = .next t) :
    InvAt c t := by
  obtain ⟨-, hn⟩ | ⟨-, -, hn⟩ | ⟨hp, hroom, hn⟩ | ⟨-, -, hn⟩ := fpush_cases c d s <;> rw [hn] at ht <;> cases ht
  · exact h.faultingCommand _ (by decide)
  · exact h.faultingCommand _ (by decide)
  · exact h.push d hp hroom

theorem InvAt.fframe {c : Config} {s : State} (h : InvAt c s) (i : Byte) : InvAt c (fframe c i s) := by
  obtain ⟨-, hn⟩ | ⟨-, -, hn⟩ | ⟨-, hi, hn⟩ := fframe_cases c i s <;> rw [hn]
  · exact h.faultingCommand _ (by decide)
  · exact h.faultingCommand _ (by decide)
  · exact h.latchFrame hi

theorem InvAt.fframee {c : Config} {s : State} (h : InvAt c s) : InvAt c (fframee c s) := by
  obtain ⟨-, hn⟩ | ⟨-, hn⟩ := fframee_cases c s <;> rw [hn]
  · exact h.faultingCommand _ (by decide)
  · exact h.latchFrame le_rfl

/-- `f_rp + 1` does not wrap up to the end of a frame (R10). -/
theorem f_rp_succ {n : BitVec 9} {len : BitVec 8} (h : n.toNat ≤ len.toNat) : (n + 1).toNat = n.toNat + 1 := by
  have hlen := len.isLt
  have hone : (1 : BitVec 9).toNat = 1 := rfl
  rw [BitVec.toNat_add, hone]
  omega

/-- Where bytes are left, a read moves the pointer at most to the end. -/
theorem InvAt.advance {c : Config} {s : State} (h : InvAt c s) (v : Byte) (hp : s.f_phase = .emit)
    (hleft : s.f_rp.toNat ≠ s.f_len.toNat + 1) :
    InvAt c { s with rsp := s.rsp ++ [v], f_rp := s.f_rp + 1 } := by
  obtain ⟨b, hb, hcrc, hemit⟩ := h.frameBytes
  obtain ⟨hidx, hrp, hchk⟩ := hemit hp
  have hle : s.f_rp.toNat ≤ s.f_len.toNat := by omega
  refine ⟨h.bufWf, h.bufBelow, h.lenBound, ⟨b, hb, hcrc, fun _ => ⟨hidx, ?_, hchk⟩⟩, ?_, h.faultCauseAgree⟩
  · rw [f_rp_succ hle]; exact Nat.succ_le_succ hle
  · intro ha; rw [hp] at ha; cases ha

theorem InvAt.fread {c : Config} {s t : State} (h : InvAt c s) (ht : fread s = .next t) : InvAt c t := by
  obtain ⟨-, hn⟩ | ⟨-, -, hn⟩ | ⟨hp, hleft, v, -, hn⟩ | ⟨-, -, -, hn⟩ := fread_cases s <;> rw [hn] at ht <;> cases ht
  · exact h.faultingCommand _ (by decide)
  · exact h.faultingCommand _ (by decide)
  · exact h.advance v hp hleft

/-- Building a packet leaves its bytes framed and read out, OVERFLOW recorded if some found no room (log entry 5). -/
theorem InvAt.buildPacket {c : Config} {s t : State} (h : InvAt c s) {b : List Byte} (hne : 1 ≤ b.length)
    (ht : buildPacket c b s = .next t) : InvAt c t := by
  obtain ⟨m, kept, hkept, P, hm⟩ := buildPacket_all c b s hne
  rw [hm] at ht
  cases ht
  have hmax := c.bufMax
  have hmin := c.bufMin
  have hk : kept.length = min c.bufBytes b.length := by rw [hkept, List.length_take]
  have hlen : (BitVec.ofNat 8 kept.length).toNat = kept.length := by rw [BitVec.toNat_ofNat]; omega
  have hrp : (BitVec.ofNat 9 (kept.length + 1)).toNat = kept.length + 1 := by rw [BitVec.toNat_ofNat]; omega
  have hone : (1 : BitVec 8).toNat = 1 := rfl
  refine ⟨P.wf h.bufWf, P.inRange h.bufBelow, ?_, ⟨kept, ?_, rfl, fun _ => ⟨?_, ?_, rfl⟩⟩, nofun, ?_⟩
  · rw [hlen]; omega
  · rw [hlen]; simpa using P.bytes
  · rw [hlen, hone]; omega
  · rw [hlen, hrp]
  · by_cases hfit : b.length ≤ c.bufBytes
    · simpa [hfit] using h.faultCauseAgree
    · have hraised := h.raised_cause_ne (code := .overflow) (by decide)
      simp only [hfit, or_false]
      exact iff_of_false (by simp; omega) hraised

/-- Every instruction keeps the invariant, at every configuration. -/
theorem InvAt.execWith {c : Config} {i : Instr} {s t : State} (h : InvAt c s) (ht : execWith c i s = .next t) :
    InvAt c t := by
  cases i with
  | fpush d => exact h.fpush ht
  | fread => exact h.fread ht
  | fclr => cases ht; exact h.fclr
  | fframe i => cases ht; exact h.fframe i
  | fframee => cases ht; exact h.fframee
  | pktStatus | pktBrightness | pktMonitor | pktPid => exact h.buildPacket (by simp) ht
  | nop | ginit | gupd | gread | flen | stat | sentinel => cases ht; exact h.congr rfl

/-- Every step keeps the invariant, at every configuration. -/
theorem InvAt.stepWith {c : Config} {s t : State} (h : InvAt c s) (ht : stepWith c s = .next t) : InvAt c t := by
  have hset (rest : List HostEvent) : InvAt c (setEvents rest s) := h.congr rfl
  obtain ⟨-, hn⟩ | ⟨rest, -, hn⟩ | ⟨e, rest, i, -, -, hn⟩ | ⟨w, rest, op, -, -, hn⟩ | ⟨bytes, rest, -, -, hn⟩ :=
    takeEvent_cases c (Machine.execWith c) s <;> rw [Machine.stepWith, hn] at ht
  · cases ht; exact h
  · cases ht; exact InvAt.assertReset c _
  · exact (hset rest).execWith ht
  · cases ht; exact (hset rest).faultingCommand op (by decide)
  · cases ht

/-- The machine's instructions are those at its own configuration. -/
theorem execWith_block (i : Instr) (s : State) : execWith block i s = exec i s := by cases i <;> rfl

theorem stepWith_block : stepWith block = step := by
  funext s
  rw [stepWith, step, funext₂ execWith_block]

theorem Inv.step {s t : State} (h : Inv s) (ht : step s = .next t) : Inv t :=
  InvAt.stepWith h (stepWith_block ▸ ht)

/-! ## What unit G holds, and what the host has left to present (spec/10_state.md R23, R36 item 7) -/

/-- Unit G's register after an instruction: only GINIT and GUPD write it. -/
def generatorAfter (c : Config) (i : Instr) (r : Byte) : Byte :=
  match i with
  | .ginit => c.profile.init
  | .gupd d => crcStep c.profile r d
  | .nop | .gread | .fclr | .fpush _ | .fframe _ | .fframee | .fread | .flen | .stat
  | .pktStatus _ _ _ | .pktBrightness _ _ | .pktMonitor _ _ _ _ | .pktPid _ _ _ _ _ _ | .sentinel => r

theorem fpush_g_acc_cmd {c : Config} {d : Byte} {s t : State} (ht : fpush c d s = .next t) :
    t.g_acc = s.g_acc ∧ t.cmd = s.cmd := by
  obtain ⟨-, hn⟩ | ⟨-, -, hn⟩ | ⟨-, -, hn⟩ | ⟨-, -, hn⟩ := fpush_cases c d s <;> rw [hn] at ht <;> cases ht <;>
    exact ⟨rfl, rfl⟩

theorem fframe_g_acc_cmd (c : Config) (i : Byte) (s : State) :
    (fframe c i s).g_acc = s.g_acc ∧ (fframe c i s).cmd = s.cmd := by
  obtain ⟨-, hn⟩ | ⟨-, -, hn⟩ | ⟨-, -, hn⟩ := fframe_cases c i s <;> rw [hn] <;> exact ⟨rfl, rfl⟩

theorem fframee_g_acc_cmd (c : Config) (s : State) : (fframee c s).g_acc = s.g_acc ∧ (fframee c s).cmd = s.cmd := by
  obtain ⟨-, hn⟩ | ⟨-, hn⟩ := fframee_cases c s <;> rw [hn] <;> exact ⟨rfl, rfl⟩

theorem fread_g_acc_cmd {s t : State} (ht : fread s = .next t) : t.g_acc = s.g_acc ∧ t.cmd = s.cmd := by
  obtain ⟨-, hn⟩ | ⟨-, -, hn⟩ | ⟨-, -, v, -, hn⟩ | ⟨-, -, -, hn⟩ := fread_cases s <;> rw [hn] at ht <;> cases ht <;>
    exact ⟨rfl, rfl⟩

theorem buildPacket_g_acc_cmd {c : Config} {b : List Byte} {s t : State} (hne : 1 ≤ b.length)
    (ht : buildPacket c b s = .next t) : t.g_acc = s.g_acc ∧ t.cmd = s.cmd := by
  obtain ⟨m, kept, -, -, hm⟩ := buildPacket_all c b s hne
  rw [hm] at ht
  cases ht
  exact ⟨rfl, rfl⟩

/-- What an instruction does to unit G and to the events still pending. -/
theorem execWith_g_acc_cmd {c : Config} {i : Instr} {s t : State} (ht : execWith c i s = .next t) :
    t.g_acc = generatorAfter c i s.g_acc ∧ t.cmd = s.cmd := by
  cases i with
  | fpush d => exact fpush_g_acc_cmd ht
  | fread => exact fread_g_acc_cmd ht
  | fframe i => cases ht; exact fframe_g_acc_cmd c i s
  | fframee => cases ht; exact fframee_g_acc_cmd c s
  | pktStatus | pktBrightness | pktMonitor | pktPid => exact buildPacket_g_acc_cmd (by simp) ht
  | nop | ginit | gupd | gread | fclr | flen | stat | sentinel => cases ht; exact ⟨rfl, rfl⟩

/-- The operands absorbed are followed one event at a time. -/
theorem absorbed_cons (d : List Byte) (e : HostEvent) (es : List HostEvent) :
    absorbed d (e :: es) = absorbed (absorbed d [e]) es := by
  cases hd : decode e with
  | idle | reset => simp [absorbed, hd]
  | decoded x =>
    cases x with
    | illegal | unknownPacket => simp [absorbed, hd]
    | instr i => cases i <;> simp [absorbed, hd]

/-- An instruction's event absorbs what its instruction does to the register. -/
theorem foldl_absorbed_instr (c : Config) (d : List Byte) {e : HostEvent} {i : Instr}
    (he : decode e = .decoded (.instr i)) :
    (absorbed d [e]).foldl (crcStep c.profile) c.profile.init =
      generatorAfter c i (d.foldl (crcStep c.profile) c.profile.init) := by
  cases i <;> simp [absorbed, he, generatorAfter]

/-- A step takes the oldest event, and unit G absorbs what that event gives it. -/
theorem step_absorbs {s t : State} {e : HostEvent} {rest : List HostEvent} {d : List Byte}
    (hcmd : s.cmd = e :: rest) (hacc : s.g_acc = d.foldl (crcStep block.profile) block.profile.init)
    (ht : step s = .next t) :
    t.cmd = rest ∧ t.g_acc = (absorbed d [e]).foldl (crcStep block.profile) block.profile.init := by
  obtain ⟨hc, -⟩ | ⟨rest', hc, hn⟩ | ⟨e', rest', i, hc, he, hn⟩ | ⟨w, rest', op, hc, hw, hn⟩ |
    ⟨bytes, rest', -, -, hn⟩ := step_cases s
  · rw [hcmd] at hc; cases hc
  · rw [hcmd] at hc; cases hc
    rw [hn] at ht; cases ht
    exact ⟨rfl, rfl⟩
  · rw [hcmd] at hc; cases hc
    obtain ⟨hg, hrest⟩ := execWith_g_acc_cmd ((execWith_block i _).trans (hn.symm.trans ht))
    exact ⟨hrest, by rw [hg, setEvents_g_acc, hacc, foldl_absorbed_instr block d he]⟩
  · rw [hcmd] at hc; cases hc
    rw [hn] at ht; cases ht
    exact ⟨rfl, by simpa [absorbed, decode, hw, executeIllegal] using hacc⟩
  · rw [hn] at ht; cases ht

/-! ## Every state reached from reset (spec/10_state.md R36) -/

/-- What every step keeps holds along every run. -/
theorem runSteps_induction {P : State → Prop} (hstep : ∀ s t, P s → step s = .next t → P t) {n : Nat} {s t : State}
    (h : P s) (ht : runSteps n s = .next t) : P t := by
  induction n generalizing s with
  | zero => cases ht; exact h
  | succ n ih =>
    rw [runSteps] at ht
    cases hs : step s with
    | next u => rw [hs] at ht; exact ih (hstep s u h hs) ht
    | fault r => rw [hs] at ht; cases ht
    | refused r => rw [hs] at ht; cases ht

theorem step_idle {s : State} (hcmd : s.cmd = []) : step s = .next s := by
  simp [step, takeEvent, fetch, hcmd]

/-- Along a run unit G has absorbed the operands that the events presented so far give it. -/
theorem runSteps_absorbs {n : Nat} {s t : State} {d : List Byte}
    (hacc : s.g_acc = d.foldl (crcStep block.profile) block.profile.init) (ht : runSteps n s = .next t) :
    t.g_acc = (absorbed d (s.cmd.take n)).foldl (crcStep block.profile) block.profile.init := by
  induction n generalizing s d with
  | zero => cases ht; simpa [absorbed] using hacc
  | succ n ih =>
    rw [runSteps] at ht
    cases hs : step s with
    | fault r => rw [hs] at ht; cases ht
    | refused r => rw [hs] at ht; cases ht
    | next u =>
      rw [hs] at ht
      cases hcmd : s.cmd with
      | nil =>
        obtain rfl : s = u := by rw [step_idle hcmd] at hs; cases hs; rfl
        simpa [hcmd] using ih hacc ht
      | cons e rest =>
        obtain ⟨hrest, hu⟩ := step_absorbs hcmd hacc hs
        rw [List.take_succ_cons, absorbed_cons, ← hrest]
        exact ih hu ht

/-- Settles O38: every step keeps the invariant, and unit G follows the events presented. -/
theorem reachableStatesMeetInvariant : Obligations.ReachableStatesMeetInvariant := by
  intro es n t ht
  rw [← runSteps_eq_run] at ht
  have hinv : Inv (launch es) := (InvAt.resetWith block).congr rfl
  refine ⟨runSteps_induction (fun _ _ => Inv.step) hinv ht, ?_⟩
  have hacc := runSteps_absorbs (s := launch es) (d := []) rfl ht
  rw [hacc, launch_cmd, crc]

end Sys2Proof.Machine
end

section
/-! PROOF. The byte carrier of a command word and what the reading commands leave unchanged (spec/20_memory.md R53,
R56). -/

namespace Sys2Proof

/-! ## A command word is its op byte above its operand byte (spec/30_encoding.md R70) -/

theorem wordOf_eq_append (op arg : Byte) : wordOf op arg = op ++ arg := by
  rw [wordOf, BitVec.append_def, BitVec.shiftLeftZeroExtend_eq, BitVec.setWidth'_eq]

theorem wordOf_opOf_argOf (w : Word16) : wordOf (opOf w) (argOf w) = w := by
  rw [wordOf_eq_append]
  exact BitVec.extractLsb'_append_extractLsb'

/-- Settles O6: the two carrier bytes are the word's halves, and its halves make the word. -/
theorem carrierSendsOpcodeFirst : Obligations.CarrierSendsOpcodeFirst := by
  intro w
  exact ⟨rfl, congrArg some (wordOf_opOf_argOf w)⟩

end Sys2Proof

namespace Sys2Proof.Machine

/-! ## Reads without a side effect (spec/20_memory.md R56) -/

/-- What a command that answers `answer` says twice in a row, where no response changes that answer. -/
theorem runInstrs_answering_twice {i : Instr} {answer : State → Byte}
    (hexec : ∀ s, exec i s = .next (respond (answer s) s)) (hanswer : ∀ v s, answer (respond v s) = answer s)
    (s : State) : runInstrs [i, i] s = .next { s with rsp := s.rsp ++ [answer s, answer s] } := by
  simp only [runInstrs, andThen, hexec, hanswer]
  simp [respond]

/-- FREAD raises nothing exactly where a frame has bytes left (R137). -/
theorem faultCause_fread_eq_none (s : State) :
    faultCause .fread s = none ↔ s.f_phase = .emit ∧ s.f_rp.toNat ≠ s.f_len.toNat + 1 := by
  cases hp : s.f_phase <;> simp [faultCause, hp]

/-- A FREAD that raises nothing responds the byte at the pointer and moves the pointer on (R137). -/
theorem exec_fread_of_faultCause_none {s t : State} (ht : exec .fread s = .next t)
    (hok : faultCause .fread s = none) :
    ∃ v, outByte s s.f_rp.toNat = some v ∧ t = { s with rsp := s.rsp ++ [v], f_rp := s.f_rp + 1 } := by
  obtain ⟨hemit, hleft⟩ := (faultCause_fread_eq_none s).1 hok
  change fread s = .next t at ht
  obtain ⟨haccum, -⟩ | ⟨-, hdrained, -⟩ | ⟨-, -, v, hv, hn⟩ | ⟨-, -, -, hn⟩ := fread_cases s
  · rw [hemit] at haccum; cases haccum
  · exact absurd hdrained hleft
  · rw [hn] at ht; cases ht
    exact ⟨v, hv, rfl⟩
  · rw [hn] at ht; cases ht

/-- Settles O43: GREAD, FLEN and STAT read nothing that a response writes, and FREAD's cases are `fread_cases`. -/
theorem readSideEffects : Obligations.ReadSideEffects := by
  refine ⟨?_, fun s t => exec_fread_of_faultCause_none, fun _ _ => rfl⟩
  rintro i s (rfl | rfl | rfl)
  · exact ⟨_, runInstrs_answering_twice (answer := fun s => crcFinal block.profile s.g_acc)
      (fun _ => rfl) (fun _ _ => rfl) s⟩
  · exact ⟨_, runInstrs_answering_twice (answer := State.f_len) (fun _ => rfl) (fun _ _ => rfl) s⟩
  · exact ⟨_, runInstrs_answering_twice (answer := statByte block) (fun _ => rfl) (fun _ _ => rfl) s⟩

end Sys2Proof.Machine
end

section
/-! PROOF. The command words of the opcode table, the illegal words, and how many there are of each
(spec/30_encoding.md R74, R75, R76). -/

namespace Sys2Proof

/-! ## The two fields of a command word (R70) -/

@[simp] theorem toNat_wordOf (op arg : Byte) : (wordOf op arg).toNat = 256 * op.toNat + arg.toNat := by
  rw [wordOf_eq_append, BitVec.toNat_append, ← Nat.shiftLeft_add_eq_or_of_lt arg.isLt, Nat.shiftLeft_eq, Nat.mul_comm]

@[simp] theorem opOf_wordOf (op arg : Byte) : opOf (wordOf op arg) = op := by
  apply BitVec.eq_of_toNat_eq
  simp only [opOf, BitVec.extractLsb'_toNat, toNat_wordOf, Nat.shiftRight_eq_div_pow]
  omega

@[simp] theorem argOf_wordOf (op arg : Byte) : argOf (wordOf op arg) = arg := by
  apply BitVec.eq_of_toNat_eq
  simp only [argOf, BitVec.extractLsb'_toNat, toNat_wordOf, Nat.shiftRight_zero]
  omega

/-- The words of one opcode, as R74's table writes their range. -/
theorem wordOf_eq_add (op arg : Byte) : wordOf op arg = wordOf op 0x00 + arg.setWidth 16 := by
  apply BitVec.eq_of_toNat_eq
  simp
  omega

theorem ofNat_eq_wordOf (op : Nat) {arg : Nat} (harg : arg < 256) :
    BitVec.ofNat 16 (256 * op + arg) = wordOf (BitVec.ofNat 8 op) (BitVec.ofNat 8 arg) := by
  apply BitVec.eq_of_toNat_eq
  simp
  omega

/-! ## Decoding a word (R75) -/

/-- The opcodes of R74's table. -/
def commandOpcodes : List Byte := [0x00, 0x10, 0x11, 0x12, 0x20, 0x21, 0x22, 0x23, 0x24, 0x25, 0x30]

/-- The opcodes of format N (R71, R75). -/
def formatNOpcodes : List Byte := [0x00, 0x10, 0x12, 0x20, 0x23, 0x24, 0x25, 0x30]

/-- The two kinds (a) and (b) of illegal words in R76, by a word's fields. -/
abbrev IllegalFields (op arg : Byte) : Prop :=
  op ∉ commandOpcodes ∨ (op ∈ formatNOpcodes ∧ arg ≠ 0x00)

/-- A decoded word is the encoding of its instruction, or illegal by its fields and named by its opcode. -/
def DecodesTo (w : Word16) (d : Decoded) : Prop :=
  (∃ i, encode i = .word w ∧ d = .instr i) ∨ (IllegalFields (opOf w) (argOf w) ∧ d = .illegal (opOf w))

theorem decodesTo_formatN {w : Word16} {op : Byte} {i : Instr} (henc : encode i = .word (wordOf op 0x00))
    (hN : op ∈ formatNOpcodes) (hop : (opOf w).toNat = op.toNat) : DecodesTo w (formatN i w) := by
  obtain rfl := BitVec.eq_of_toNat_eq hop
  by_cases harg : argOf w = 0x00
  · exact .inl ⟨i, by rw [henc, ← harg, wordOf_opOf_argOf], if_pos harg⟩
  · exact .inr ⟨.inr ⟨hN, harg⟩, if_neg harg⟩

theorem decodesTo_operand {w : Word16} {op : Byte} {f : Byte → Instr}
    (henc : ∀ d, encode (f d) = .word (wordOf op d)) (hop : (opOf w).toNat = op.toNat) :
    DecodesTo w (.instr (f (argOf w))) := by
  obtain rfl := BitVec.eq_of_toNat_eq hop
  exact .inl ⟨_, by rw [henc, wordOf_opOf_argOf], rfl⟩

theorem decodesTo_decodeWord (w : Word16) : DecodesTo w (decodeWord w) := by
  unfold decodeWord
  split
  case h_1 hop => exact decodesTo_formatN (op := 0x00) rfl (by decide) hop
  case h_2 hop => exact decodesTo_formatN (op := 0x10) rfl (by decide) hop
  case h_3 hop => exact decodesTo_operand (op := 0x11) (fun _ => rfl) hop
  case h_4 hop => exact decodesTo_formatN (op := 0x12) rfl (by decide) hop
  case h_5 hop => exact decodesTo_formatN (op := 0x20) rfl (by decide) hop
  case h_6 hop => exact decodesTo_operand (op := 0x21) (fun _ => rfl) hop
  case h_7 hop => exact decodesTo_operand (op := 0x22) (fun _ => rfl) hop
  case h_8 hop => exact decodesTo_formatN (op := 0x23) rfl (by decide) hop
  case h_9 hop => exact decodesTo_formatN (op := 0x24) rfl (by decide) hop
  case h_10 hop => exact decodesTo_formatN (op := 0x25) rfl (by decide) hop
  case h_11 hop => exact decodesTo_formatN (op := 0x30) rfl (by decide) hop
  case h_12 =>
    refine .inr ⟨.inl fun hmem => ?_, rfl⟩
    simp only [commandOpcodes, List.mem_cons, List.not_mem_nil, or_false] at hmem
    simp_all [← BitVec.toNat_inj]

/-- A command's word decodes to it. -/
theorem decodeWord_of_encode {i : Instr} {w : Word16} (h : encode i = .word w) : decodeWord w = .instr i := by
  cases i <;> cases h <;> simp [decodeWord, formatN]

theorem decodeWord_eq_instr_iff {w : Word16} {i : Instr} : decodeWord w = .instr i ↔ encode i = .word w := by
  refine ⟨fun h => ?_, decodeWord_of_encode⟩
  obtain ⟨j, henc, hj⟩ | ⟨-, hill⟩ := decodesTo_decodeWord w
  · cases h.symm.trans hj
    exact henc
  · cases h.symm.trans hill

/-- A command's word has legal fields. -/
theorem not_illegalFields_of_encode {i : Instr} {w : Word16} (h : encode i = .word w) :
    ¬ IllegalFields (opOf w) (argOf w) := by
  cases i <;> cases h <;> simp [IllegalFields, commandOpcodes, formatNOpcodes]

theorem decodeWord_eq_illegal_iff {w : Word16} :
    decodeWord w = .illegal (opOf w) ↔ IllegalFields (opOf w) (argOf w) := by
  obtain ⟨i, henc, hi⟩ | ⟨hfields, hill⟩ := decodesTo_decodeWord w
  · simp only [hi, not_illegalFields_of_encode henc, reduceCtorEq]
  · simp only [hill, hfields]

/-- The words that decode to an instruction are the one that encodes it. -/
theorem decodeWord_eq_instr_iff_eq {w v : Word16} {i : Instr} (h : encode i = .word v) :
    decodeWord w = .instr i ↔ w = v := by
  rw [decodeWord_eq_instr_iff, h, HostEvent.word.injEq, eq_comm]

/-- The same for an instruction with an operand byte, as R74's table writes its words. -/
theorem decodeWord_eq_instr_iff_eq_add {w : Word16} {op d : Byte} {i : Instr} (h : encode i = .word (wordOf op d)) :
    decodeWord w = .instr i ↔ w = wordOf op 0x00 + d.setWidth 16 := by
  rw [decodeWord_eq_instr_iff_eq h, wordOf_eq_add]

/-- Only a command is presented as a word. -/
theorem isCommand_of_encode {i : Instr} {w : Word16} (h : encode i = .word w) : Machine.isCommand i = true := by
  cases i <;> cases h <;> rfl

/-! ## Counting the words (R74, R76) -/

/-- Counting row by row: `m` rows of `n` numbers each. -/
theorem countP_range_mul (p : Nat → Bool) (n m : Nat) :
    (List.range (n * m)).countP p =
      ((List.range m).map fun a => (List.range n).countP fun k => p (n * a + k)).sum := by
  induction m with
  | zero => rfl
  | succ m ih =>
    rw [Nat.mul_succ, List.range_add, List.countP_append, List.countP_map, ih, List.range_succ, List.map_append,
      List.sum_append]
    simp [Function.comp_def]

/-- The numbers a count leaves out. -/
theorem countP_range_complement {p q : Nat → Bool} {n m : Nat} (hpq : ∀ w, q w = !p w)
    (hp : (List.range n).countP p = m) : (List.range n).countP q = n - m := by
  have hq : q = fun w => decide ¬ p w = true := by
    funext w
    simp [hpq]
  have h := List.length_eq_countP_add_countP p (l := List.range n)
  rw [hp, List.length_range, ← hq] at h
  omega

/-- How many operand bytes make an illegal word with an opcode (R76). -/
def illegalOperands (op : Byte) : Nat :=
  if op ∈ commandOpcodes then (if op ∈ formatNOpcodes then 255 else 0) else 256

theorem countP_illegalFields (op : Byte) :
    (List.range 256).countP (fun k => IllegalFields op (BitVec.ofNat 8 k)) = illegalOperands op := by
  unfold illegalOperands
  split_ifs with hop hN
  · simp only [IllegalFields, hop, hN, not_true, false_or, true_and]
    decide +kernel
  · simp [IllegalFields, hop, hN]
  · simp [IllegalFields, hop]

theorem decodeWord_ofNat_eq_illegal_iff (op : Nat) {arg : Nat} (harg : arg < 256) :
    decodeWord (BitVec.ofNat 16 (256 * op + arg)) = .illegal (opOf (BitVec.ofNat 16 (256 * op + arg))) ↔
      IllegalFields (BitVec.ofNat 8 op) (BitVec.ofNat 8 arg) := by
  rw [decodeWord_eq_illegal_iff, ofNat_eq_wordOf op harg, opOf_wordOf, argOf_wordOf]

theorem countP_illegal :
    (List.range 65536).countP (fun w => decodeWord (BitVec.ofNat 16 w) = .illegal (opOf (BitVec.ofNat 16 w))) =
      245 * 256 + 8 * 255 := by
  rw [show 65536 = 256 * 256 from rfl, countP_range_mul]
  have hrow (op : Nat) : ((List.range 256).countP fun k => decodeWord (BitVec.ofNat 16 (256 * op + k)) =
      .illegal (opOf (BitVec.ofNat 16 (256 * op + k)))) = illegalOperands (BitVec.ofNat 8 op) := by
    rw [← countP_illegalFields]
    refine List.countP_congr fun k hk => ?_
    simp only [decide_eq_true_iff, decodeWord_ofNat_eq_illegal_iff op (List.mem_range.1 hk)]
  simp only [hrow]
  decide +kernel

theorem countP_legal :
    (List.range 65536).countP (fun w => decodeWord (BitVec.ofNat 16 w) ≠ .illegal (opOf (BitVec.ofNat 16 w))) = 776 :=
  countP_range_complement (fun w => by simp) countP_illegal

end Sys2Proof

namespace Sys2Proof.Machine

/-- `READS` of R74. -/
theorem isRead_iff (op : Byte) : isRead op = true ↔ op ∈ ([0x12, 0x24, 0x25, 0x30] : List Byte) := by
  simp [isRead, or_assoc]

/-- The response of a faulting command (R202), as a choice between two response lists. -/
theorem append_zeroIfRead (op : Byte) (rsp : List Byte) :
    rsp ++ (if isRead op then [0x00] else []) =
      if op ∈ ([0x12, 0x24, 0x25, 0x30] : List Byte) then rsp ++ [0x00] else rsp := by
  simp only [← isRead_iff]
  split
  · rfl
  · rw [List.append_nil]

/-- Settles O4: a word decodes to an instruction exactly when it is the instruction's encoding, and the legal words are
those that the count of the illegal ones leaves. -/
theorem commandWordTable : Obligations.CommandWordTable :=
  ⟨fun _ => decodeWord_eq_instr_iff_eq rfl,
   fun _ => decodeWord_eq_instr_iff_eq rfl,
   fun _ _ => decodeWord_eq_instr_iff_eq_add (op := 0x11) rfl,
   fun _ => decodeWord_eq_instr_iff_eq rfl,
   fun _ => decodeWord_eq_instr_iff_eq rfl,
   fun _ _ => decodeWord_eq_instr_iff_eq_add (op := 0x21) rfl,
   fun _ _ => decodeWord_eq_instr_iff_eq_add (op := 0x22) rfl,
   fun _ => decodeWord_eq_instr_iff_eq rfl,
   fun _ => decodeWord_eq_instr_iff_eq rfl,
   fun _ => decodeWord_eq_instr_iff_eq rfl,
   fun _ => decodeWord_eq_instr_iff_eq rfl,
   fun _ _ h => isCommand_of_encode (decodeWord_eq_instr_iff.1 h),
   countP_legal,
   isRead_iff⟩

/-- A step on an illegal word. -/
theorem step_illegal {s : State} {w : Word16} {rest : List HostEvent} {op : Byte} (hcmd : s.cmd = .word w :: rest)
    (hw : decodeWord w = .illegal op) : step s = .next (executeIllegal op (setEvents rest s)) := by
  simp [step, takeEvent, fetch, decode, hcmd, hw]

theorem executeIllegal_setEvents (op : Byte) (rest : List HostEvent) (s : State) :
    executeIllegal op (setEvents rest s) = { s with
      cmd := rest
      fault := true
      cause := if s.fault then s.cause else .illegal
      rsp := if op ∈ ([0x12, 0x24, 0x25, 0x30] : List Byte) then s.rsp ++ [0x00] else s.rsp } := by
  rw [← append_zeroIfRead]
  rfl

/-- Settles O5: the words with illegal fields are those that decode to ILLEGAL. -/
theorem illegalWordsRecordIllegal : Obligations.IllegalWordsRecordIllegal := by
  refine ⟨fun s w rest hcmd hfields => ?_, countP_illegal⟩
  rw [step_illegal hcmd (decodeWord_eq_illegal_iff.2 hfields), executeIllegal_setEvents]

end Sys2Proof.Machine
end

section
/-! PROOF. The CRC function (spec/40_crc_generator.md section 1): reflection, the reflected form, the table and the
residue. -/

namespace Sys2Proof.Machine

/-! ## Reversing the bits of a byte (R100) -/

/-- Settles O10: the bits are `refl8_getLsbD`, the examples are computed. -/
theorem reflectReversesBits : Obligations.ReflectReversesBits :=
  ⟨fun x _ hk => refl8_getLsbD x hk, by decide, by decide, by decide⟩

theorem refl8_xor (x y : Byte) : refl8 (x ^^^ y) = refl8 x ^^^ refl8 y := by
  refine BitVec.eq_of_getLsbD_eq fun k hk => ?_
  rw [BitVec.getLsbD_xor, refl8_getLsbD _ hk, refl8_getLsbD _ hk, refl8_getLsbD _ hk, BitVec.getLsbD_xor]

theorem refl8_shiftLeft_one (x : Byte) : refl8 (x <<< 1) = refl8 x >>> 1 := by
  refine BitVec.eq_of_getLsbD_eq fun k hk => ?_
  rw [refl8_getLsbD _ hk, BitVec.getLsbD_ushiftRight, BitVec.getLsbD_shiftLeft]
  rcases Nat.lt_or_ge (1 + k) 8 with hin | hout
  · have hlow : ¬ 7 - k < 1 := by omega
    have htop : 7 - k < 8 := by omega
    rw [refl8_getLsbD _ hin, decide_eq_true htop, decide_eq_false hlow, Nat.sub_sub, Nat.add_comm k 1]
    rfl
  · have hlow : 7 - k < 1 := by omega
    rw [BitVec.getLsbD_of_ge _ _ hout, decide_eq_true hlow, Bool.not_true, Bool.and_false, Bool.false_and]

/-! ## The reflected form (R105) -/

/-- Reflection turns a turn of R101's loop into a turn of the reflected loop. -/
theorem refl8_crcShift (p : Profile) : Function.Semiconj refl8 (crcShift p) (crcShiftR p) := by
  intro t
  have hbit : (refl8 t).getLsbD 0 = t.getLsbD 7 := refl8_getLsbD t (by decide)
  rw [crcShift, crcShiftR, hbit]
  split
  · rw [refl8_xor, refl8_shiftLeft_one]
  · rw [refl8_shiftLeft_one]

theorem refl8_crcStep {p : Profile} (hin : p.refin = true) (r d : Byte) :
    refl8 (crcStep p r d) = crcStepR p (refl8 r) d := by
  rw [crcStep, if_pos hin, (refl8_crcShift p).iterate_right 8, refl8_xor, refl8_refl8, crcStepR]

theorem crcR_eq_crc {p : Profile} (hin : p.refin = true) (hout : p.refout = true) (b : List Byte) :
    crcR p b = crc p b := by
  rw [crcR, crc, crcFinal, if_pos hout,
    List.foldl_hom refl8 (g₁ := crcStep p) (g₂ := crcStepR p) fun r d => (refl8_crcStep hin r d).symm]

/-- Entry x of the table is what eight turns of the reflected loop make of x. -/
theorem crcTable_getElem (x : Byte) : crcTable[x.toNat]? = some (Nat.iterate (crcShiftR profileDoc) 8 x) := by
  revert x
  decide +kernel

/-- Settles O12: reflection carries the one loop to the other, turn by turn and then byte by byte. -/
theorem reflectedFormAgrees : Obligations.ReflectedFormAgrees :=
  ⟨fun p hin hout => ⟨fun s d => by rw [refl8_crcStep hin, refl8_refl8], crcR_eq_crc hin hout⟩,
   by decide, fun s d => crcTable_getElem (s ^^^ d)⟩

/-! ## The check value and the residue (R104, R109) -/

/-- The bytes whose CRC is the check value (R104). -/
def checkSequence : List Byte := [0x31, 0x32, 0x33, 0x34, 0x35, 0x36, 0x37, 0x38, 0x39]

theorem crc_checkSequence : crc profileDoc checkSequence = 0x97 := by decide +kernel

theorem crc_empty : crc profileDoc [] = 0xFF := by decide

/-- Settles O11: the machine's profile is `profileDoc` by definition. -/
theorem profileAndCheckValue : Obligations.ProfileAndCheckValue :=
  ⟨rfl, crc_checkSequence⟩

theorem crcShift_zero (p : Profile) : crcShift p 0 = 0 := rfl

theorem crcFinal_of_xorout_zero {p : Profile} (hxor : p.xorout = 0) (r : Byte) :
    crcFinal p r = if p.refout then refl8 r else r := by
  simp [crcFinal, hxor]

/-- Where nothing is XORed into the checksum, a register that absorbs its own checksum cancels to zero before the
loop. -/
theorem crcStep_crcFinal {p : Profile} (hrefl : p.refin = p.refout) (hxor : p.xorout = 0) (r : Byte) :
    crcStep p r (crcFinal p r) = 0 := by
  have hcancel : (if p.refin then refl8 (crcFinal p r) else crcFinal p r) = r := by
    rw [crcFinal_of_xorout_zero hxor, hrefl]
    split
    · exact refl8_refl8 r
    · rfl
  rw [crcStep, hcancel, BitVec.xor_self]
  exact Function.iterate_fixed (crcShift_zero p) 8

theorem crcFinal_zero {p : Profile} (hxor : p.xorout = 0) : crcFinal p 0 = 0 := by
  rw [crcFinal_of_xorout_zero hxor]
  split <;> rfl

theorem crc_append_crc {p : Profile} (hrefl : p.refin = p.refout) (hxor : p.xorout = 0) (b : List Byte) :
    crc p (b ++ [crc p b]) = 0 := by
  have hzero : (b ++ [crc p b]).foldl (crcStep p) p.init = 0 := by
    rw [List.foldl_append]
    exact crcStep_crcFinal hrefl hxor _
  rw [crc, hzero, crcFinal_zero hxor]

/-- Settles O13: the checksum cancels the register it was made from, and zero stays zero. -/
theorem crcResidue : Obligations.CrcResidue :=
  ⟨crc_empty, crc_checkSequence, crc_append_crc rfl rfl, by decide +kernel, by decide +kernel⟩

end Sys2Proof.Machine
end

section
/-! PROOF. Unit G: GINIT, GUPD, GREAD and a stream of them among other commands (spec/40_crc_generator.md section 2). -/

namespace Sys2Proof.Machine

/-! ## What each command of unit G does (R106, R107, R108) -/

theorem exec_ginit (s : State) : exec .ginit s = .next { s with g_acc := block.profile.init } := rfl

theorem exec_gupd (d : Byte) (s : State) :
    exec (.gupd d) s = .next { s with g_acc := crcStep block.profile s.g_acc d } := rfl

theorem exec_gread (s : State) :
    exec .gread s = .next { s with rsp := s.rsp ++ [crcFinal block.profile s.g_acc] } := rfl

/-- A word of a format-N opcode with a nonzero operand byte (R71, R76). -/
theorem nonzeroOperandIsIllegal_of_formatN {op : Byte} (hop : op ∈ formatNOpcodes) :
    NonzeroOperandIsIllegal op (isRead op) := by
  intro s arg rest harg hcmd
  have hfields : IllegalFields (opOf (wordOf op arg)) (argOf (wordOf op arg)) := by
    rw [opOf_wordOf, argOf_wordOf]
    exact .inr ⟨hop, harg⟩
  rw [step_illegal hcmd (decodeWord_eq_illegal_iff.2 hfields), opOf_wordOf, executeIllegal_setEvents]
  simp only [isRead_iff]

/-! ## A stream of bytes (R80, R110) -/

theorem runInstrs_gupds (b : List Byte) (s : State) :
    runInstrs (b.map .gupd) s = .next { s with g_acc := b.foldl (crcStep block.profile) s.g_acc } := by
  induction b generalizing s with
  | nil => rfl
  | cons d b ih => rw [List.map_cons, runInstrs, exec_gupd, andThen, ih, List.foldl_cons]

/-- All that `CRC8 b` does, from every state (R80). -/
theorem runInstrs_pseudoCrc8 (b : List Byte) (s : State) : runInstrs (pseudoCrc8 b) s = .next { s with
    g_acc := b.foldl (crcStep block.profile) block.profile.init
    rsp := s.rsp ++ [crc block.profile b] } := by
  rw [pseudoCrc8, List.cons_append, runInstrs, exec_ginit, andThen, runInstrs_append, runInstrs_gupds]
  rfl

/-- Settles O17: STAT does not read `g_acc`, and the example is GUPD followed by `CRC8` of nothing. -/
theorem ginitCommand : Obligations.GinitCommand := by
  refine ⟨decodeWord_of_encode rfl, exec_ginit, ?_, nonzeroOperandIsIllegal_of_formatN (by decide), rfl, ?_⟩
  · intro s t ht
    cases ht
    rfl
  · intro s hacc
    have hstep : crcStep block.profile 0xFF 0x00 = 0xC4 := by decide +kernel
    refine ⟨by rw [exec_gupd, hacc, hstep], ?_⟩
    rw [runInstrs, exec_gupd, andThen]
    refine (runInstrs_pseudoCrc8 [] _).trans ?_
    cases s
    cases hacc
    rfl

/-- Settles O18: the example is `CRC8 0x1F`. -/
theorem gupdCommand : Obligations.GupdCommand :=
  ⟨fun _ => decodeWord_of_encode rfl, fun s d => exec_gupd d s, by decide +kernel, by decide +kernel, by decide,
   fun s => runInstrs_pseudoCrc8 [0x1F] s⟩

/-- Settles O19: the two programs are `CRC8` of nothing and of the check sequence. -/
theorem greadCommand : Obligations.GreadCommand :=
  ⟨decodeWord_of_encode rfl, exec_gread, nonzeroOperandIsIllegal_of_formatN (op := 0x12) (by decide),
   runInstrs_pseudoCrc8 [], crc_empty,
   fun s => ⟨_, runInstrs_pseudoCrc8 checkSequence s, congrArg (s.rsp ++ [·]) crc_checkSequence⟩⟩

/-! ## Other commands among the stream (R110) -/

/-- FPUSH never stops from a state that meets the invariant. -/
theorem InvAt.fpush_completes {c : Config} {s : State} (h : InvAt c s) (d : Byte) :
    ∃ t, Machine.fpush c d s = .next t := by
  obtain ⟨-, hn⟩ | ⟨-, -, hn⟩ | ⟨-, -, hn⟩ | ⟨-, hover, -⟩ := fpush_cases c d s
  · exact ⟨_, hn⟩
  · exact ⟨_, hn⟩
  · exact ⟨_, hn⟩
  · exact absurd h.lenBound (Nat.not_le.2 hover)

/-- FREAD never stops from a state that meets the invariant. -/
theorem InvAt.fread_completes {c : Config} {s : State} (h : InvAt c s) : ∃ t, Machine.fread s = .next t := by
  obtain ⟨-, hn⟩ | ⟨-, -, hn⟩ | ⟨-, -, v, -, hn⟩ | ⟨hemit, hleft, hnone, -⟩ := fread_cases s
  · exact ⟨_, hn⟩
  · exact ⟨_, hn⟩
  · exact ⟨_, hn⟩
  · obtain ⟨b, hb, -, hframe⟩ := h.frameBytes
    obtain ⟨hidx, hrp, -⟩ := hframe hemit
    have hlen := Memory.firstBytes_length hb
    rw [outByte_of_firstBytes hb hidx (by omega), List.getElem?_eq_none_iff] at hnone
    simp only [List.length_append, List.length_take, List.length_cons, List.length_nil, List.length_drop] at hnone
    omega

/-- No instruction stops from a state that meets the invariant. -/
theorem InvAt.execWith_completes {c : Config} {s : State} (h : InvAt c s) (i : Instr) :
    ∃ t, Machine.execWith c i s = .next t := by
  cases i with
  | fpush d => exact h.fpush_completes d
  | fread => exact h.fread_completes
  | pktStatus | pktBrightness | pktMonitor | pktPid =>
    obtain ⟨m, kept, -, -, hm⟩ := buildPacket_all c _ s (List.length_pos_of_mem List.mem_cons_self)
    exact ⟨_, hm⟩
  | nop | ginit | gupd | gread | fclr | fframe | fframee | flen | stat | sentinel => exact ⟨_, rfl⟩

/-- The operands of some instructions' GUPDs begin with those of the first. -/
theorem gupdOperands_cons (i : Instr) (is : List Instr) :
    gupdOperands (i :: is) = gupdOperands [i] ++ gupdOperands is :=
  List.filterMap_append (l := [i])

theorem generatorAfter_of_ne_ginit (c : Config) {i : Instr} (hi : i ≠ .ginit) (r : Byte) :
    generatorAfter c i r = (gupdOperands [i]).foldl (crcStep c.profile) r := by
  cases i with
  | ginit => exact absurd rfl hi
  | _ => rfl

/-- Instructions without GINIT complete, and unit G has then absorbed the operands of the GUPDs among them. -/
theorem runInstrs_absorbs {is : List Instr} {s : State} (h : Inv s) (his : ∀ i ∈ is, i ≠ .ginit) :
    ∃ t, runInstrs is s = .next t ∧ t.g_acc = (gupdOperands is).foldl (crcStep block.profile) s.g_acc := by
  induction is generalizing s with
  | nil => exact ⟨s, rfl, rfl⟩
  | cons i is ih =>
    obtain ⟨hi, his⟩ := List.forall_mem_cons.1 his
    obtain ⟨u, hu⟩ := h.execWith_completes i
    obtain ⟨hacc, -⟩ := execWith_g_acc_cmd hu
    obtain ⟨t, ht, htacc⟩ := ih (h.execWith hu) his
    refine ⟨t, by rw [runInstrs, ← execWith_block, hu, andThen, ht], ?_⟩
    rw [htacc, hacc, generatorAfter_of_ne_ginit block hi, gupdOperands_cons i is, List.foldl_append]

/-- Settles O20: GINIT starts the register and keeps the invariant, and the instructions after it absorb their
operands. -/
theorem generatorStreamLaw : Obligations.GeneratorStreamLaw := by
  refine ⟨fun s b => ⟨_, runInstrs_pseudoCrc8 b s, rfl⟩, fun s is h his => ?_⟩
  have hinit : Inv { s with g_acc := block.profile.init } := h.congr rfl
  obtain ⟨t, ht, hacc⟩ := runInstrs_absorbs hinit fun i hi => (his i hi).2
  refine ⟨t, _, by rw [runInstrs, exec_ginit, andThen, ht], exec_gread t, ?_⟩
  rw [hacc, crc]

end Sys2Proof.Machine
end

section
/-! PROOF. The framing function and `OutByte` (spec/41_framer.md R130 to R132). -/

namespace Sys2Proof.Machine

/-! ## `Frame(b, i)` inserts the checksum at index i (R130, R131) -/

theorem take_append_drop_eq_insertIdx {b : List Byte} {i : Nat} (v : Byte) (h : i ≤ b.length) :
    b.take i ++ [v] ++ b.drop i = b.insertIdx i v := by
  induction b generalizing i with
  | nil =>
    obtain rfl : i = 0 := Nat.le_zero.1 h
    rfl
  | cons d b ih =>
    cases i with
    | zero => rfl
    | succ i =>
      rw [List.insertIdx_succ_cons, ← ih (Nat.le_of_succ_le_succ h)]
      rfl

theorem frame_eq_insertIdx (p : Profile) {b : List Byte} {i : Nat} (h : i ≤ b.length) :
    frame p b i = some (b.insertIdx i (crc p b)) := by
  rw [frame, if_pos h, take_append_drop_eq_insertIdx _ h]

theorem frame_eq_none (p : Profile) {b : List Byte} {i : Nat} (h : b.length < i) : frame p b i = none := by
  rw [frame, if_neg (Nat.not_le.2 h)]

/-- Settles O15: taking out what was inserted gives the sequence back. -/
theorem frameFunctionProperties : Obligations.FrameFunctionProperties := by
  refine ⟨fun p b i hi => ⟨_, frame_eq_insertIdx p hi, List.length_insertIdx_of_le_length hi _, ?_, ?_⟩,
    fun p b i => frame_eq_none p, by decide +kernel, by decide +kernel⟩
  · rw [← List.eraseIdx_eq_take_drop_succ, List.eraseIdx_insertIdx_self]
  · rw [List.getElem?_insertIdx_self, if_pos hi]

/-! ## `OutByte` (R132) -/

/-- `OutByte` reads the stored bytes with the latched checksum inserted at the latched index. -/
theorem outByte_eq_insertIdx {s : State} {b : List Byte} (hb : s.f_buf.firstBytes s.f_len.toNat = some b)
    (hidx : s.f_idx.toNat ≤ s.f_len.toNat) {k : Nat} (hk : k ≤ s.f_len.toNat) :
    outByte s k = (b.insertIdx s.f_idx.toNat s.f_chk)[k]? := by
  have hlen := Memory.firstBytes_length hb
  rw [outByte_of_firstBytes hb hidx hk, take_append_drop_eq_insertIdx _ (hlen ▸ hidx)]

theorem outByte_isSome {s : State} {b : List Byte} (hb : s.f_buf.firstBytes s.f_len.toNat = some b)
    (hidx : s.f_idx.toNat ≤ s.f_len.toNat) {k : Nat} (hk : k ≤ s.f_len.toNat) : ∃ v, outByte s k = some v := by
  have hlen := Memory.firstBytes_length hb
  have hout := List.length_insertIdx_of_le_length (hlen ▸ hidx) s.f_chk
  exact ⟨_, (outByte_eq_insertIdx hb hidx hk).trans (List.getElem?_eq_getElem (by omega))⟩

/-- Settles O16: both readings of `OutByte` are those of the list it indexes. -/
theorem outByteReadsFrame : Obligations.OutByteReadsFrame := by
  intro s b hb hidx
  have hle : s.f_idx.toNat ≤ b.length := (Memory.firstBytes_length hb).symm ▸ hidx
  refine ⟨fun k hk => ?_, fun hchk f hf k hk => ?_⟩
  · rw [outByte_eq_insertIdx hb hidx hk, List.getElem?_insertIdx]
    by_cases heq : k = s.f_idx.toNat
    · subst heq; simp [hle]
    · simp [heq]
  · obtain rfl := Option.some.inj ((frame_eq_insertIdx _ hle).symm.trans hf)
    rw [outByte_eq_insertIdx hb hidx hk, hchk]

end Sys2Proof.Machine
end

section
/-! PROOF. Unit F's commands: FCLR, FPUSH, FFRAME, FFRAMEE, FREAD, FLEN (spec/41_framer.md section 2). -/

namespace Sys2Proof.Machine

/-! ## What each command does where its checks stop it (R202, R203) -/

/-- A faulting command whose opcode does not respond changes the fault record alone. -/
theorem faultingCommand_of_not_isRead {op : Byte} (hop : isRead op = false) (code : Cause) (s : State) :
    faultingCommand op code s = { s with fault := true, cause := if s.fault then s.cause else code } := by
  simp [faultingCommand, respondZeroIf, raiseFault, hop]

/-- A faulting command whose opcode responds answers 0x00. -/
theorem faultingCommand_of_isRead {op : Byte} (hop : isRead op = true) (code : Cause) (s : State) :
    faultingCommand op code s =
      { s with fault := true, cause := if s.fault then s.cause else code, rsp := s.rsp ++ [0x00] } := by
  simp [faultingCommand, respondZeroIf, raiseFault, hop]

theorem exec_fpush_of_emit {s : State} (hp : s.f_phase = .emit) (d : Byte) : exec (.fpush d) s =
    .next { s with fault := true, cause := if s.fault then s.cause else .phase } := by
  rw [← faultingCommand_of_not_isRead (op := 0x21) rfl]
  simp [exec, execFpush, fpush, hp]

theorem exec_fpush_of_full {s : State} (hp : s.f_phase = .accum) (hfull : s.f_len.toNat = block.bufBytes) (d : Byte) :
    exec (.fpush d) s = .next { s with fault := true, cause := if s.fault then s.cause else .overflow } := by
  rw [← faultingCommand_of_not_isRead (op := 0x21) rfl]
  simp [exec, execFpush, fpush, hp, fullBit, hfull]

theorem exec_fframe_of_emit {s : State} (hp : s.f_phase = .emit) (i : Byte) : exec (.fframe i) s =
    .next { s with fault := true, cause := if s.fault then s.cause else .phase } := by
  rw [← faultingCommand_of_not_isRead (op := 0x22) rfl]
  simp [exec, execFframe, fframe, hp]

theorem exec_fframe_of_badIndex {s : State} (hp : s.f_phase = .accum) {i : Byte} (hi : s.f_len.toNat < i.toNat) :
    exec (.fframe i) s = .next { s with fault := true, cause := if s.fault then s.cause else .badIndex } := by
  rw [← faultingCommand_of_not_isRead (op := 0x22) rfl]
  simp [exec, execFframe, fframe, hp, indexOperand, hi]

theorem exec_fframee_of_emit {s : State} (hp : s.f_phase = .emit) : exec .fframee s =
    .next { s with fault := true, cause := if s.fault then s.cause else .phase } := by
  rw [← faultingCommand_of_not_isRead (op := 0x23) rfl]
  simp [exec, execFframee, fframee, hp]

theorem exec_fread_of_accum {s : State} (hp : s.f_phase = .accum) : exec .fread s = .next { s with
    fault := true, cause := if s.fault then s.cause else .phase, rsp := s.rsp ++ [0x00] } := by
  rw [← faultingCommand_of_isRead (op := 0x24) rfl]
  simp [exec, execFread, fread, hp]

theorem exec_fread_of_drained {s : State} (hp : s.f_phase = .emit) (hd : s.f_rp.toNat = s.f_len.toNat + 1) :
    exec .fread s = .next { s with
      fault := true, cause := if s.fault then s.cause else .underflow, rsp := s.rsp ++ [0x00] } := by
  rw [← faultingCommand_of_isRead (op := 0x24) rfl]
  simp [exec, execFread, fread, hp, drained, hd]

/-! ## What each command does where it passes its checks (R133 to R138) -/

theorem exec_fclr (s : State) : exec .fclr s = .next { s with
    f_len := 0, f_acc := block.profile.init, f_phase := .accum, f_idx := 0, f_chk := 0x00, f_rp := 0 } := rfl

theorem exec_fpush_of_room {s : State} (hp : s.f_phase = .accum) (hroom : s.f_len.toNat < block.bufBytes) (d : Byte) :
    exec (.fpush d) s = .next { s with
      f_buf := s.f_buf.write s.f_len.toNat d, f_len := s.f_len + 1, f_acc := crcStep block.profile s.f_acc d } := by
  simp [exec, execFpush, dataOperand, fpush, hp, fullBit, hroom.ne, writeBuf, pushIndex, hroom]

theorem exec_fframe_of_le {s : State} (hp : s.f_phase = .accum) {i : Byte} (hi : i.toNat ≤ s.f_len.toNat) :
    exec (.fframe i) s = .next (latchFrame block i s) := by
  simp [exec, execFframe, fframe, hp, indexOperand, Nat.not_lt.2 hi]

theorem exec_fframee_of_accum {s : State} (hp : s.f_phase = .accum) :
    exec .fframee s = .next (latchFrame block s.f_len s) := by
  simp [exec, execFframee, fframee, hp]

theorem exec_fread_of_left {s : State} (hp : s.f_phase = .emit) (hleft : s.f_rp.toNat ≠ s.f_len.toNat + 1) {v : Byte}
    (hv : outByte s s.f_rp.toNat = some v) :
    exec .fread s = .next { s with rsp := s.rsp ++ [v], f_rp := s.f_rp + 1 } := by
  simp [exec, execFread, fread, hp, drained, hleft, hv, respond]

theorem exec_flen (s : State) : exec .flen s = .next { s with rsp := s.rsp ++ [s.f_len] } := rfl

/-- FFRAMEE is FFRAME at the end of the stored bytes (R136). -/
theorem exec_fframee_eq (s : State) : exec .fframee s = exec (.fframe s.f_len) s := by
  cases hp : s.f_phase with
  | accum => rw [exec_fframee_of_accum hp, exec_fframe_of_le hp le_rfl]
  | emit => rw [exec_fframee_of_emit hp, exec_fframe_of_emit hp]

/-! ## Programs of unit F (R80) -/

theorem runInstrs_fpushes (b : List Byte) (s : State) : runInstrs (b.map .fpush) s = pushAll block b s := by
  induction b generalizing s with
  | nil => rfl
  | cons d b ih =>
    rw [List.map_cons, runInstrs, pushAll, funext ih]
    rfl

theorem runInstrs_pseudoDrain (n : Nat) (s : State) : runInstrs (pseudoDrain n) s = readAll n s := by
  induction n generalizing s with
  | zero => rfl
  | succ n ih =>
    rw [pseudoDrain, List.replicate_succ, runInstrs, readAll, ← funext ih]
    rfl

/-- A sequence no longer than the smallest capacity fits every `f_buf` (R5). -/
theorem fits_of_le_six {b : List Byte} (h : b.length ≤ 6) : b.length ≤ block.bufBytes :=
  h.trans block.bufMin

theorem toNat_ofNat_length {b : List Byte} (hfit : b.length ≤ block.bufBytes) :
    (BitVec.ofNat 8 b.length).toNat = b.length := by
  have hmax := block.bufMax
  rw [BitVec.toNat_ofNat]
  omega

/-- FCLR and the pushes of a sequence that fits store it and absorb it. -/
theorem runInstrs_fclr_fpushes {b : List Byte} (hfit : b.length ≤ block.bufBytes) (s : State) :
    ∃ m, Stored block [] b s.f_buf m ∧ runInstrs (.fclr :: b.map .fpush) s = .next { fclr block s with
      f_buf := m
      f_len := BitVec.ofNat 8 b.length
      f_acc := b.foldl (crcStep block.profile) block.profile.init } := by
  obtain ⟨m, hm, hpush⟩ := pushAll_next block b (s := fclr block s) (b0 := []) rfl rfl (by simpa using hfit)
  have hlen : (fclr block s).f_len + BitVec.ofNat 8 b.length = BitVec.ofNat 8 b.length := BitVec.zero_add _
  refine ⟨m, hm, ?_⟩
  rw [runInstrs, exec_fclr, andThen, runInstrs_fpushes, ← hlen]
  exact hpush

/-- FFRAME after them latches their checksum. -/
theorem runInstrs_fclr_fpushes_fframe {b : List Byte} (hfit : b.length ≤ block.bufBytes) {i : Byte}
    (hi : i.toNat ≤ b.length) (s : State) :
    ∃ m, runInstrs (.fclr :: b.map .fpush ++ [.fframe i]) s = .next { fclr block s with
      f_buf := m
      f_len := BitVec.ofNat 8 b.length
      f_acc := b.foldl (crcStep block.profile) block.profile.init
      f_phase := .emit
      f_idx := i
      f_chk := crc block.profile b } := by
  obtain ⟨m, -, hm⟩ := runInstrs_fclr_fpushes hfit s
  refine ⟨m, ?_⟩
  rw [runInstrs_append, hm, andThen, runInstrs, exec_fframe_of_le rfl (by rwa [toNat_ofNat_length hfit])]
  rfl

/-- FFRAMEE after them is FFRAME at their number (R136). -/
theorem runInstrs_fclr_fpushes_fframee {b : List Byte} (hfit : b.length ≤ block.bufBytes) (s : State) :
    runInstrs (.fclr :: b.map .fpush ++ [.fframee]) s =
      runInstrs (.fclr :: b.map .fpush ++ [.fframe (BitVec.ofNat 8 b.length)]) s := by
  obtain ⟨m, -, hm⟩ := runInstrs_fclr_fpushes hfit s
  rw [runInstrs_append, runInstrs_append, hm, andThen, andThen, runInstrs, runInstrs, exec_fframee_eq]

/-- `FRAME b @ i`, as the host runs it for a packet, is the commands it stands for. -/
theorem runInstrs_pseudoFrame (b : List Byte) (i : Byte) (s : State) :
    runInstrs (pseudoFrame b i) s = frameOnBlock block b i s := by
  rw [pseudoFrame, List.cons_append, List.cons_append, runInstrs, exec_fclr, andThen, List.append_assoc,
    runInstrs_append, runInstrs_fpushes, frameOnBlock]
  refine congrArg _ (funext fun t => ?_)
  rw [List.singleton_append, runInstrs, ← runInstrs_pseudoDrain]
  rfl

theorem runInstrs_pseudoFramee {b : List Byte} (hfit : b.length ≤ block.bufBytes) (s : State) :
    runInstrs (pseudoFramee b) s = runInstrs (pseudoFrame b (BitVec.ofNat 8 b.length)) s := by
  rw [pseudoFramee, runInstrs_append, runInstrs_fclr_fpushes_fframee hfit, ← runInstrs_append, pseudoFrame]

/-- All that `FRAME b @ i` does, from every state, for a b that fits and a legal index (R139). -/
theorem runInstrs_pseudoFrame_next {b : List Byte} (hfit : b.length ≤ block.bufBytes) {i : Byte}
    (hi : i.toNat ≤ b.length) (s : State) :
    ∃ m f, frame block.profile b i.toNat = some f ∧ runInstrs (pseudoFrame b i) s = .next { s with
      f_buf := m
      f_len := BitVec.ofNat 8 b.length
      f_acc := b.foldl (crcStep block.profile) block.profile.init
      f_phase := .emit
      f_idx := i
      f_chk := crc block.profile b
      f_rp := BitVec.ofNat 9 (b.length + 1)
      rsp := s.rsp ++ f } := by
  obtain ⟨m, -, hm⟩ := frameOnBlock_next block b i s hfit hi
  exact ⟨m, _, if_pos hi, (runInstrs_pseudoFrame b i s).trans hm⟩

/-- What `FRAME b @ i` responds, as a computed frame. -/
theorem runInstrs_pseudoFrame_rsp {b f : List Byte} (hlen : b.length ≤ 6) {i : Byte}
    (hf : frame block.profile b i.toNat = some f) (s : State) :
    ∃ t, runInstrs (pseudoFrame b i) s = .next t ∧ t.rsp = s.rsp ++ f := by
  have hi : i.toNat ≤ b.length := by
    by_contra hi
    rw [frame_eq_none _ (Nat.lt_of_not_le hi)] at hf
    cases hf
  obtain ⟨m, g, hg, ht⟩ := runInstrs_pseudoFrame_next (fits_of_le_six hlen) hi s
  obtain rfl := Option.some.inj (hg.symm.trans hf)
  exact ⟨_, ht, rfl⟩

/-! ## The commands (R133 to R138) -/

/-- A framer just cleared is as full as a reset one: not at all. -/
theorem fullBit_fclr (c : Config) (s : State) : fullBit c (fclr c s) = false := fullBit_resetWith c

/-- Where no fault stands, a cleared framer has the status of reset. -/
theorem statByte_fclr (c : Config) {s : State} (hf : s.fault = false) (hc : s.cause = .none) :
    statByte c (fclr c s) = 0x00 := by
  rw [← statByte_resetWith c]
  cases s
  cases hf
  cases hc
  rfl

/-- Settles O21: FCLR checks nothing, and a cleared framer has the status of a reset one. -/
theorem fclrCommand : Obligations.FclrCommand := by
  refine ⟨decodeWord_of_encode rfl, exec_fclr, fun s t ht => ?_, fun s hf hc => ?_,
    nonzeroOperandIsIllegal_of_formatN (by decide)⟩
  · cases ht
    exact ⟨rfl, rfl, fullBit_fclr block s⟩
  · refine ⟨_, rfl, ?_⟩
    have hstat := statByte_fclr block hf hc
    simp [flen, hstat]

/-- Settles O22: FPUSH's three ways, with the laws of a write to `f_buf`. -/
theorem fpushCommand : Obligations.FpushCommand := by
  refine ⟨fun _ => decodeWord_of_encode rfl, fun s d hp => exec_fpush_of_emit hp d,
    fun s d hp hfull => exec_fpush_of_full hp hfull d, fun s d hp hroom => ?_, fun s => ?_⟩
  · have hlen := f_len_succ block hroom
    refine ⟨_, exec_fpush_of_room hp hroom d, rfl, hlen, Memory.read_write_same _ _ _,
      fun a ha => Memory.read_write_other _ _ _ _ ha, ?_⟩
    rw [fullBit_iff, hlen]
  · obtain ⟨m, hm, hrun⟩ := runInstrs_fclr_fpushes (b := [0x1F]) (fits_of_le_six (by decide)) s
    have hacc : [0x1F].foldl (crcStep block.profile) block.profile.init = 0x53 := by decide +kernel
    exact ⟨_, hrun, rfl, Memory.read_of_firstBytes hm.bytes (by decide), hacc⟩

/-- Settles O23: FFRAME's three ways, and `FRAME` of nothing for the empty frame. -/
theorem fframeCommand : Obligations.FframeCommand := by
  refine ⟨fun _ => decodeWord_of_encode rfl, fun s i hp => exec_fframe_of_emit hp i,
    fun s i hp hi => exec_fframe_of_badIndex hp hi, fun s i hp hi => exec_fframe_of_le hp hi,
    fun s t i hp hi ht => ?_, fun s => ?_, ?_⟩
  · rw [exec_fframe_of_le hp hi] at ht
    cases ht
    exact ⟨rfl, rfl⟩
  · obtain ⟨m, hrun⟩ := runInstrs_fclr_fpushes_fframe (b := [0x1F, 0xF0, 0x00]) (i := 0x01)
      (fits_of_le_six (by decide)) (by decide) s
    have hcrc : crc block.profile [0x1F, 0xF0, 0x00] = 0x94 := by decide +kernel
    exact ⟨_, hrun, hcrc, rfl⟩
  · exact runInstrs_pseudoFrame_rsp (b := []) (i := 0x00) (by decide) (by decide +kernel)

/-- Settles O24: FFRAMEE's two ways; the example is `FRAMEE 0xAA`. -/
theorem fframeeCommand : Obligations.FframeeCommand := by
  refine ⟨decodeWord_of_encode rfl, nonzeroOperandIsIllegal_of_formatN (by decide), fun s => exec_fframee_of_emit,
    fun s => exec_fframee_of_accum, exec_fframee_eq, fun s => ?_⟩
  have hrun := runInstrs_pseudoFramee (b := [0xAA]) (fits_of_le_six (by decide)) s
  have hframe : frame block.profile [0xAA] 1 = some [0xAA, 0xCE] := by decide +kernel
  obtain ⟨t, ht, hrsp⟩ := runInstrs_pseudoFrame_rsp (i := 0x01) (by decide) hframe s
  exact ⟨t, hrun.trans ht, hrsp⟩

/-- Settles O25: FREAD's three ways, the last where `OutByte` has a value; the example is a `FRAME`. -/
theorem freadCommand : Obligations.FreadCommand := by
  refine ⟨decodeWord_of_encode rfl, nonzeroOperandIsIllegal_of_formatN (op := 0x24) (by decide),
    fun s => exec_fread_of_accum, fun s => exec_fread_of_drained, fun s b hp hb hidx hrp => ?_,
    runInstrs_pseudoFrame_rsp (b := [0x1F, 0xF0, 0x00]) (i := 0x01) (by decide) (by decide +kernel)⟩
  obtain ⟨v, hv⟩ := outByte_isSome hb hidx hrp
  have hnext := f_rp_succ hrp
  refine ⟨v, _, hv, exec_fread_of_left hp (by omega) hv, rfl, hnext, ?_⟩
  rw [doneBit_iff, hnext]
  simp [hp]

/-- Settles O26: FLEN reads `f_len`, which FFRAMEE leaves as the pushes made it. -/
theorem flenCommand : Obligations.FlenCommand := by
  refine ⟨decodeWord_of_encode rfl, nonzeroOperandIsIllegal_of_formatN (op := 0x25) (by decide), exec_flen,
    fun s => ?_⟩
  have hfit : ([0x31, 0x32] : List Byte).length ≤ block.bufBytes := fits_of_le_six (by decide)
  obtain ⟨m, hrun⟩ := runInstrs_fclr_fpushes_fframe hfit (i := 0x02) (by decide) s
  have hframed := (runInstrs_fclr_fpushes_fframee hfit s).trans hrun
  have hrunAll := runInstrs_append (.fclr :: [0x31, 0x32].map .fpush ++ [.fframee]) [.flen] s
  rw [hframed] at hrunAll
  exact ⟨_, hrunAll, rfl⟩

end Sys2Proof.Machine
end

section
/-! PROOF. The framing law with other units' commands interleaved, and the independence of one packet's framing from
what came before it (spec/41_framer.md R139, R141). -/

namespace Sys2Proof.Machine

/-! ## What unit F does not read (R12, R24, R141) -/

/-- Two contents of `f_buf` hold the same bytes below index n. -/
def AgreeBelow (n : Nat) (m m' : Memory) : Prop := ∀ k, k < n → m'.read k = m.read k

theorem AgreeBelow.refl (n : Nat) (m : Memory) : AgreeBelow n m m := fun _ _ => rfl

theorem AgreeBelow.zero (m m' : Memory) : AgreeBelow 0 m m' := fun k hk => absurd hk k.not_lt_zero

/-- A push makes two buffers agree on one byte more. -/
theorem AgreeBelow.write {n : Nat} {m m' : Memory} (h : AgreeBelow n m m') (d : Byte) :
    AgreeBelow (n + 1) (m.write n d) (m'.write n d) := by
  intro k hk
  by_cases hkn : k = n
  · rw [hkn, Memory.read_write_same, Memory.read_write_same]
  · rw [Memory.read_write_other _ _ _ _ hkn, Memory.read_write_other _ _ _ _ hkn]
    exact h k (by omega)

theorem agreeBelow_of_firstBytes {n : Nat} {m m' : Memory} {b : List Byte} (h : m.firstBytes n = some b)
    (h' : m'.firstBytes n = some b) : AgreeBelow n m m' :=
  fun _ hk => (Memory.read_of_firstBytes h' hk).trans (Memory.read_of_firstBytes h hk).symm

/-- Another register of unit G, other responses given, and another `f_buf`. -/
def withUnread (g : Byte) (r : List Byte) (m : Memory) (s : State) : State :=
  { s with g_acc := g, rsp := r, f_buf := m }

theorem outByte_withUnread {s : State} {m : Memory} (h : AgreeBelow s.f_len.toNat s.f_buf m) (g : Byte)
    (r : List Byte) (k : Nat) : outByte (withUnread g r m s) k = outByte s k := by
  have hread (k : Nat) : readBuf (withUnread g r m s) k = readBuf s k := ite_congr rfl (h k) fun _ => rfl
  rw [outByte, outByte, hread, hread]
  rfl

/-- An instruction that leads from s to t and responds `bytes` does so whatever unit G holds, whatever was responded
before, and whatever `f_buf` holds at and above `f_len`. -/
def ReadsOnlyFrame (i : Instr) (s t : State) (bytes : List Byte) : Prop :=
  ∀ m, AgreeBelow s.f_len.toNat s.f_buf m → ∃ m', AgreeBelow t.f_len.toNat t.f_buf m' ∧
    ∀ g r, exec i (withUnread g r m s) = .next (withUnread g (r ++ bytes) m' t)

/-- In particular it leaves unit G alone. -/
theorem ReadsOnlyFrame.rsp_g_acc {i : Instr} {s t : State} {bytes : List Byte} (h : ReadsOnlyFrame i s t bytes)
    (ht : exec i s = .next t) : t.rsp = s.rsp ++ bytes ∧ t.g_acc = s.g_acc := by
  obtain ⟨m', -, hexec⟩ := h s.f_buf (.refl _ _)
  have heq := Host.Outcome.next.inj (ht.symm.trans (hexec s.g_acc s.rsp))
  exact ⟨congrArg State.rsp heq, (congrArg State.g_acc heq :)⟩

theorem fpush_readsOnlyFrame {d : Byte} {s t : State} (ht : exec (.fpush d) s = .next t) :
    ReadsOnlyFrame (.fpush d) s t [] := by
  simp only [ReadsOnlyFrame, List.append_nil]
  intro m hm
  obtain ⟨hp, -⟩ | ⟨hp, hfull, -⟩ | ⟨hp, hroom, -⟩ | ⟨-, -, hn⟩ := fpush_cases block d s
  · rw [exec_fpush_of_emit hp] at ht; cases ht
    exact ⟨m, hm, fun g r => exec_fpush_of_emit (s := withUnread g r m s) hp d⟩
  · rw [exec_fpush_of_full hp hfull] at ht; cases ht
    exact ⟨m, hm, fun g r => exec_fpush_of_full (s := withUnread g r m s) hp hfull d⟩
  · rw [exec_fpush_of_room hp hroom] at ht; cases ht
    refine ⟨m.write s.f_len.toNat d, ?_, fun g r => exec_fpush_of_room (s := withUnread g r m s) hp hroom d⟩
    rw [f_len_succ block hroom]
    exact hm.write d
  · cases hn.symm.trans ht

theorem fframe_readsOnlyFrame {i : Byte} {s t : State} (ht : exec (.fframe i) s = .next t) :
    ReadsOnlyFrame (.fframe i) s t [] := by
  simp only [ReadsOnlyFrame, List.append_nil]
  intro m hm
  obtain ⟨hp, -⟩ | ⟨hp, hi, -⟩ | ⟨hp, hi, -⟩ := fframe_cases block i s
  · rw [exec_fframe_of_emit hp] at ht; cases ht
    exact ⟨m, hm, fun g r => exec_fframe_of_emit (s := withUnread g r m s) hp i⟩
  · rw [exec_fframe_of_badIndex hp hi] at ht; cases ht
    exact ⟨m, hm, fun g r => exec_fframe_of_badIndex (s := withUnread g r m s) hp hi⟩
  · rw [exec_fframe_of_le hp hi] at ht; cases ht
    exact ⟨m, hm, fun g r => exec_fframe_of_le (s := withUnread g r m s) hp hi⟩

theorem fframee_readsOnlyFrame {s t : State} (ht : exec .fframee s = .next t) : ReadsOnlyFrame .fframee s t [] := by
  rw [exec_fframee_eq] at ht
  intro m hm
  obtain ⟨m', hm', hexec⟩ := fframe_readsOnlyFrame ht m hm
  exact ⟨m', hm', fun g r => (exec_fframee_eq _).trans (hexec g r)⟩

theorem fread_readsOnlyFrame {s t : State} (ht : exec .fread s = .next t) : ∃ v, ReadsOnlyFrame .fread s t [v] := by
  obtain ⟨hp, -⟩ | ⟨hp, hd, -⟩ | ⟨hp, hleft, v, hv, -⟩ | ⟨-, -, -, hn⟩ := fread_cases s
  · rw [exec_fread_of_accum hp] at ht; cases ht
    exact ⟨_, fun m hm => ⟨m, hm, fun g r => exec_fread_of_accum (s := withUnread g r m s) hp⟩⟩
  · rw [exec_fread_of_drained hp hd] at ht; cases ht
    exact ⟨_, fun m hm => ⟨m, hm, fun g r => exec_fread_of_drained (s := withUnread g r m s) hp hd⟩⟩
  · rw [exec_fread_of_left hp hleft hv] at ht; cases ht
    exact ⟨v, fun m hm => ⟨m, hm, fun g r =>
      exec_fread_of_left (s := withUnread g r m s) hp hleft ((outByte_withUnread hm g r _).trans hv)⟩⟩
  · cases hn.symm.trans ht

/-- Every command of unit F reads the frame alone, and FREAD and FLEN alone respond. -/
theorem framer_readsOnlyFrame {i : Instr} {s t : State} (hi : isFramer i = true) (ht : exec i s = .next t) :
    ∃ bytes, (i ≠ .fread → i ≠ .flen → bytes = []) ∧ ReadsOnlyFrame i s t bytes := by
  cases i with
  | fclr =>
    cases ht
    refine ⟨[], fun _ _ => rfl, fun m _ => ⟨m, .zero _ _, fun g r => ?_⟩⟩
    rw [List.append_nil]
    rfl
  | fpush d => exact ⟨[], fun _ _ => rfl, fpush_readsOnlyFrame ht⟩
  | fframe i => exact ⟨[], fun _ _ => rfl, fframe_readsOnlyFrame ht⟩
  | fframee => exact ⟨[], fun _ _ => rfl, fframee_readsOnlyFrame ht⟩
  | fread =>
    obtain ⟨v, hv⟩ := fread_readsOnlyFrame ht
    exact ⟨[v], fun h => absurd rfl h, hv⟩
  | flen => cases ht; exact ⟨[s.f_len], fun _ h => absurd rfl h, fun m hm => ⟨m, hm, fun _ _ => rfl⟩⟩
  | nop | ginit | gupd | gread | stat | pktStatus | pktBrightness | pktMonitor | pktPid | sentinel => cases hi

/-! ## The framing law (R139) -/

theorem runInstrs_cons_eq_next {i : Instr} {is : List Instr} {s t : State} :
    runInstrs (i :: is) s = .next t ↔ ∃ u, exec i s = .next u ∧ runInstrs is u = .next t := by
  rw [runInstrs]
  cases exec i s <;> simp [andThen]

theorem runCollecting_cons {i : Instr} {s u t : State} {bytes f : List Byte} {is : List Instr}
    (hu : exec i s = .next u) (hrsp : i = .fread → u.rsp = s.rsp ++ bytes) (hsilent : i ≠ .fread → bytes = [])
    (ht : runCollecting is u = some (f, t)) : runCollecting (i :: is) s = some (bytes ++ f, t) := by
  rw [runCollecting, hu]
  by_cases hi : i = .fread
  · simp [hi, hrsp hi, ht]
  · simp [hi, hsilent hi, ht]

/-- A command of another unit changes unit G's register and the responses alone. -/
theorem exec_of_not_isFramer {i : Instr} (hcmd : isCommand i = true) (hi : isFramer i = false) (s : State) :
    ∃ g r, exec i s = .next (withUnread g r s.f_buf s) := by
  cases i with
  | nop | ginit | gupd | gread | stat => exact ⟨_, _, rfl⟩
  | fclr | fpush | fframe | fframee | fread | flen => cases hi
  | pktStatus | pktBrightness | pktMonitor | pktPid | sentinel => cases hcmd

/-- Where the commands of unit F complete by themselves, they do so among those of other units, and the FREADs respond
the same. -/
theorem runCollecting_of_filter {is : List Instr} {s t : State} (hcmd : ∀ j ∈ is, isCommand j = true)
    (hflen : .flen ∉ is) (ht : runInstrs (is.filter isFramer) s = .next t) :
    ∃ f, t.rsp = s.rsp ++ f ∧ ∀ g r m, AgreeBelow s.f_len.toNat s.f_buf m → ∃ g' r' m',
      runCollecting is (withUnread g r m s) = some (f, withUnread g' r' m' t) := by
  induction is generalizing s with
  | nil =>
    cases ht
    exact ⟨[], (List.append_nil _).symm, fun g r m _ => ⟨g, r, m, rfl⟩⟩
  | cons i is ih =>
    obtain ⟨hi, hcmd⟩ := List.forall_mem_cons.1 hcmd
    obtain ⟨hne, hflen⟩ := not_or.1 (List.mem_cons.not.1 hflen)
    by_cases hframer : isFramer i = true
    · rw [List.filter_cons_of_pos hframer, runInstrs_cons_eq_next] at ht
      obtain ⟨u, hu, ht⟩ := ht
      obtain ⟨bytes, hsilent, hreads⟩ := framer_readsOnlyFrame hframer hu
      obtain ⟨hrsp, -⟩ := hreads.rsp_g_acc hu
      obtain ⟨f, hf, hcollect⟩ := ih hcmd hflen ht
      refine ⟨bytes ++ f, by rw [hf, hrsp, List.append_assoc], fun g r m hm => ?_⟩
      obtain ⟨m₁, hm₁, hexec⟩ := hreads m hm
      obtain ⟨g', r', m', hrest⟩ := hcollect g (r ++ bytes) m₁ hm₁
      exact ⟨g', r', m', runCollecting_cons (hexec g r) (fun _ => rfl) (hsilent · (Ne.symm hne)) hrest⟩
    · rw [List.filter_cons_of_neg hframer] at ht
      obtain ⟨f, hf, hcollect⟩ := ih hcmd hflen ht
      refine ⟨f, hf, fun g r m hm => ?_⟩
      obtain ⟨g₁, r₁, hexec⟩ := exec_of_not_isFramer hi (Bool.eq_false_of_not_eq_true hframer) (withUnread g r m s)
      obtain ⟨g', r', m', hrest⟩ := hcollect g₁ r₁ m hm
      refine ⟨g', r', m', runCollecting_cons (bytes := []) hexec ?_ (fun _ => rfl) hrest⟩
      rintro rfl
      exact absurd rfl hframer

/-- `FRAME b @ i` with other units' commands among its own, for a b that fits and a legal index. -/
theorem runCollecting_frame {is : List Instr} {s : State} {b : List Byte} {i : Byte}
    (hfit : b.length ≤ block.bufBytes) (hi : i.toNat ≤ b.length) (hcmd : ∀ j ∈ is, isCommand j = true)
    (hflen : .flen ∉ is) (hrun : runInstrs (is.filter isFramer) s = runInstrs (pseudoFrame b i) s) :
    ∃ t f, runCollecting is s = some (f, t) ∧ frame block.profile b i.toNat = some f ∧
      t.f_phase = .emit ∧ t.f_rp.toNat = b.length + 1 ∧ doneBit t = true ∧ t.fault = s.fault := by
  obtain ⟨m, f, hframe, ht⟩ := runInstrs_pseudoFrame_next hfit hi s
  obtain ⟨f', hf', hcollect⟩ := runCollecting_of_filter hcmd hflen (hrun.trans ht)
  obtain rfl : f = f' := List.append_cancel_left hf'
  obtain ⟨g, r, m', hcollect⟩ := hcollect s.g_acc s.rsp s.f_buf (.refl _ _)
  have hmax := block.bufMax
  have hrp : (BitVec.ofNat 9 (b.length + 1)).toNat = b.length + 1 := by rw [BitVec.toNat_ofNat]; omega
  have hend : (BitVec.ofNat 9 (b.length + 1)).toNat = (BitVec.ofNat 8 b.length).toNat + 1 := by
    rw [hrp, toNat_ofNat_length hfit]
  exact ⟨_, f, hcollect, hframe, rfl, hrp, (doneBit_iff _).2 ⟨rfl, hend⟩, rfl⟩

theorem flen_not_mem_of_filter {is js : List Instr} (h : is.filter isFramer = js) (hjs : .flen ∉ js) : .flen ∉ is :=
  fun hmem => hjs (h ▸ List.mem_filter.2 ⟨hmem, rfl⟩)

/-- Settles O27: the commands of unit F among the others frame b as they do alone. -/
theorem framingLaw : Obligations.FramingLaw := by
  refine ⟨fun s is b i hf hfit hi hcmd his => ?_, fun s is b hf hfit hcmd his => ?_⟩
  · have hflen := flen_not_mem_of_filter his (by simp [pseudoFrame, pseudoDrain])
    rw [← hf]
    exact runCollecting_frame hfit hi hcmd hflen (by rw [his])
  · have hflen := flen_not_mem_of_filter his (by simp [pseudoFramee, pseudoDrain])
    have hlen := toNat_ofNat_length hfit
    have hlaw := runCollecting_frame (s := s) hfit hlen.le hcmd hflen (by rw [his, runInstrs_pseudoFramee hfit])
    rwa [hlen, hf] at hlaw

/-! ## One packet's framing and the next (R141) -/

/-- A packet row clears the framer first, and stores its own bytes. -/
theorem exec_packet_withBuffer {i : Instr} {b : List Byte} {s t : State} (hb : preChecksum i = some b)
    (ht : exec i s = .next t) (m : Memory) :
    ∃ m', AgreeBelow t.f_len.toNat t.f_buf m' ∧ exec i { s with f_buf := m } = .next { t with f_buf := m' } := by
  obtain ⟨hexec, hne⟩ := exec_packet hb s
  obtain ⟨m₁, _, rfl, hstored₁, hrun₁⟩ := buildPacket_all block b s hne
  obtain ⟨m₂, _, rfl, hstored₂, hrun₂⟩ := buildPacket_all block b { s with f_buf := m } hne
  cases ht.symm.trans (hexec.trans hrun₁)
  have hlen : (b.take block.bufBytes).length ≤ block.bufBytes := List.length_take_le _ _
  refine ⟨m₂, ?_, (exec_packet hb _).1.trans hrun₂⟩
  rw [toNat_ofNat_length hlen]
  exact agreeBelow_of_firstBytes (by simpa using hstored₁.bytes) (by simpa using hstored₂.bytes)

/-- Every instruction does the same over any `f_buf` that holds the bytes stored, and leaves the bytes then stored. -/
theorem exec_withBuffer {i : Instr} {s t : State} {m : Memory} (hm : AgreeBelow s.f_len.toNat s.f_buf m)
    (ht : exec i s = .next t) :
    ∃ m', AgreeBelow t.f_len.toNat t.f_buf m' ∧ exec i { s with f_buf := m } = .next { t with f_buf := m' } := by
  cases i with
  | fclr | fpush | fframe | fframee | fread | flen =>
    obtain ⟨bytes, -, hreads⟩ := framer_readsOnlyFrame rfl ht
    obtain ⟨hrsp, hacc⟩ := hreads.rsp_g_acc ht
    obtain ⟨m', hm', hexec⟩ := hreads m hm
    refine ⟨m', hm', (hexec s.g_acc s.rsp).trans ?_⟩
    rw [← hrsp, ← hacc]
    rfl
  | pktStatus | pktBrightness | pktMonitor | pktPid => exact exec_packet_withBuffer rfl ht m
  | nop | ginit | gupd | gread | stat | sentinel => cases ht; exact ⟨m, hm, rfl⟩

theorem runInstrs_withBuffer {is : List Instr} {s t : State} {m : Memory} (hm : AgreeBelow s.f_len.toNat s.f_buf m)
    (ht : runInstrs is s = .next t) : ∃ m', runInstrs is { s with f_buf := m } = .next { t with f_buf := m' } := by
  induction is generalizing s m with
  | nil => cases ht; exact ⟨m, rfl⟩
  | cons i is ih =>
    obtain ⟨u, hu, ht⟩ := runInstrs_cons_eq_next.1 ht
    obtain ⟨m₁, hm₁, hu₁⟩ := exec_withBuffer hm hu
    obtain ⟨m', ht'⟩ := ih hm₁ ht
    exact ⟨m', runInstrs_cons_eq_next.2 ⟨_, hu₁, ht'⟩⟩

/-- Settles O28: after FCLR no byte is stored, and the two states differ in `f_buf` alone. -/
theorem framesAreIndependent : Obligations.FramesAreIndependent := by
  intro s u is hu t ht
  obtain ⟨s', hs', ht⟩ := runInstrs_cons_eq_next.1 ht
  cases hs'
  have hcleared : exec .fclr u = .next { fclr block s with f_buf := u.f_buf } := by rw [hu]; rfl
  obtain ⟨m, hm⟩ := runInstrs_withBuffer (s := fclr block s) (.zero _ u.f_buf) ht
  exact ⟨_, runInstrs_cons_eq_next.2 ⟨_, hcleared, hm⟩, rfl⟩

end Sys2Proof.Machine
end

section
/-! PROOF. The block control commands NOP and STAT (spec/42_block_control.md). -/

namespace Sys2Proof.Machine

/-! ## What each block control command does (R170, R171) -/

theorem exec_nop (s : State) : exec .nop s = .next s := rfl

theorem exec_stat (s : State) : exec .stat s = .next { s with rsp := s.rsp ++ [statByte block s] } := rfl

/-- A drained frame shorter than `f_buf`, under a recorded PHASE fault: PHASE 1, FAULT 1, CAUSE 4, DONE 1, FULL 0. -/
theorem statByte_of_drained_phaseFault {c : Config} {s : State} (hphase : s.f_phase = .emit) (hfault : s.fault = true)
    (hcause : s.cause = .phase) (hdrained : s.f_rp.toNat = s.f_len.toNat + 1) (hroom : s.f_len.toNat < c.bufBytes) :
    statByte c s = 0x33 := by
  have hdone : doneBit s = true := (doneBit_iff s).2 ⟨hphase, hdrained⟩
  have hfull : fullBit c s = false := decide_eq_false hroom.ne
  rw [statByte, (phaseBit_iff s).2 hphase, hfault, hcause, hdone, hfull]
  decide

/-- Settles O29: NOP's meaning is the identity, and 0x00 is a format-N opcode that reads nothing. -/
theorem nopCommand : Obligations.NopCommand :=
  ⟨decodeWord_of_encode rfl, exec_nop, nonzeroOperandIsIllegal_of_formatN (op := 0x00) (by decide)⟩

/-- Settles O31: after reset no bit is set, and the example sets those of `statByte_of_drained_phaseFault`. -/
theorem statCommand : Obligations.StatCommand :=
  ⟨decodeWord_of_encode rfl, nonzeroOperandIsIllegal_of_formatN (op := 0x30) (by decide), exec_stat,
   statByte_resetWith block, fun _ => statByte_of_drained_phaseFault⟩

end Sys2Proof.Machine
end

section
/-! PROOF. The fault record and the responses of faulting commands (spec/60_exceptions.md R200 to R202). -/

namespace Sys2Proof.Machine

/-! ## A command that the fault table gives a cause (R200, R202) -/

/-- All that a faulting command does: the first cause is recorded, and FREAD alone responds. -/
theorem exec_of_faultCause {i : Instr} {s : State} {code : Cause} (h : faultCause i s = some code) :
    exec i s = .next { s with
      fault := true
      cause := if s.fault then s.cause else code
      rsp := if i = .fread then s.rsp ++ [0x00] else s.rsp } := by
  cases i with
  | fpush d =>
    obtain ⟨hp, -⟩ | ⟨hp, hfull, -⟩ | ⟨hp, hroom, -⟩ | ⟨hp, hover, -⟩ := fpush_cases block d s
    · obtain rfl : .phase = code := by simpa [faultCause, hp] using h
      exact exec_fpush_of_emit hp d
    · obtain rfl : .overflow = code := by simpa [faultCause, hp, hfull] using h
      exact exec_fpush_of_full hp hfull d
    · simp [faultCause, hp, hroom.ne] at h
    · simp [faultCause, hp, hover.ne'] at h
  | fframe idx =>
    obtain ⟨hp, -⟩ | ⟨hp, hidx, -⟩ | ⟨hp, hidx, -⟩ := fframe_cases block idx s
    · obtain rfl : .phase = code := by simpa [faultCause, hp] using h
      exact exec_fframe_of_emit hp idx
    · obtain rfl : .badIndex = code := by simpa [faultCause, hp, hidx] using h
      exact exec_fframe_of_badIndex hp hidx
    · simp [faultCause, hp, Nat.not_lt.2 hidx] at h
  | fframee =>
    obtain ⟨hp, -⟩ | ⟨hp, -⟩ := fframee_cases block s
    · obtain rfl : .phase = code := by simpa [faultCause, hp] using h
      exact exec_fframee_of_emit hp
    · simp [faultCause, hp] at h
  | fread =>
    obtain ⟨hp, -⟩ | ⟨hp, hdrained, -⟩ | ⟨hp, hleft, -⟩ | ⟨hp, hleft, -⟩ := fread_cases s
    · obtain rfl : .phase = code := by simpa [faultCause, hp] using h
      exact exec_fread_of_accum hp
    · obtain rfl : .underflow = code := by simpa [faultCause, hp, hdrained] using h
      exact exec_fread_of_drained hp hdrained
    · simp [faultCause, hp, hleft] at h
    · simp [faultCause, hp, hleft] at h
  | nop | ginit | gupd | gread | fclr | flen | stat => cases h
  | pktStatus | pktBrightness | pktMonitor | pktPid | sentinel => cases h

/-! ## What a recorded fault has no effect on (R201) -/

/-- Another fault record. -/
def withFaultRecord (f : Bool) (k : Cause) (s : State) : State :=
  { s with fault := f, cause := k }

/-- The fault table does not read the fault record. -/
theorem faultCause_withFaultRecord (i : Instr) (f : Bool) (k : Cause) (s : State) :
    faultCause i (withFaultRecord f k s) = faultCause i s := by
  cases i <;> rfl

/-- An instruction other than STAT that raises no fault does the same under any fault record, and leaves the record as
it finds it. A row that builds a packet is left out: its FPUSHes may raise a fault. -/
theorem exec_withFaultRecord_of_faultCause_none {i : Instr} {s t : State} (hi : i ≠ .stat)
    (hrow : preChecksum i = none) (hok : faultCause i s = none) (ht : exec i s = .next t) (f : Bool) (k : Cause) :
    exec i (withFaultRecord f k s) = .next (withFaultRecord f k t) := by
  cases i with
  | fpush d =>
    obtain ⟨hp, -⟩ | ⟨hp, hfull, -⟩ | ⟨hp, hroom, -⟩ | ⟨-, -, hn⟩ := fpush_cases block d s
    · simp [faultCause, hp] at hok
    · simp [faultCause, hp, hfull] at hok
    · rw [exec_fpush_of_room hp hroom] at ht; cases ht
      exact exec_fpush_of_room (s := withFaultRecord f k s) hp hroom d
    · cases hn.symm.trans ht
  | fframe idx =>
    obtain ⟨hp, -⟩ | ⟨hp, hidx, -⟩ | ⟨hp, hidx, -⟩ := fframe_cases block idx s
    · simp [faultCause, hp] at hok
    · simp [faultCause, hp, hidx] at hok
    · rw [exec_fframe_of_le hp hidx] at ht; cases ht
      exact exec_fframe_of_le (s := withFaultRecord f k s) hp hidx
  | fframee =>
    obtain ⟨hp, -⟩ | ⟨hp, -⟩ := fframee_cases block s
    · simp [faultCause, hp] at hok
    · rw [exec_fframee_of_accum hp] at ht; cases ht
      exact exec_fframee_of_accum (s := withFaultRecord f k s) hp
  | fread =>
    obtain ⟨hemit, hleft⟩ := (faultCause_fread_eq_none s).1 hok
    obtain ⟨v, hv, rfl⟩ := exec_fread_of_faultCause_none ht hok
    exact exec_fread_of_left (s := withFaultRecord f k s) hemit hleft hv
  | stat => exact absurd rfl hi
  | pktStatus | pktBrightness | pktMonitor | pktPid => cases hrow
  | nop | ginit | gupd | gread | fclr | flen | sentinel => cases ht; rfl

/-- An instruction other than STAT that builds no packet does the same under any fault record, but for the record. -/
theorem exec_withFaultRecord {i : Instr} {s t : State} (hi : i ≠ .stat) (hrow : preChecksum i = none)
    (ht : exec i s = .next t) (f : Bool) (k : Cause) :
    ∃ f' k', exec i (withFaultRecord f k s) = .next (withFaultRecord f' k' t) := by
  cases hcause : faultCause i s with
  | none => exact ⟨f, k, exec_withFaultRecord_of_faultCause_none hi hrow hcause ht f k⟩
  | some code =>
    rw [exec_of_faultCause hcause] at ht; cases ht
    exact ⟨_, _, exec_of_faultCause ((faultCause_withFaultRecord i f k s).trans hcause)⟩

theorem runInstrs_withFaultRecord {is : List Instr} {s t : State}
    (his : ∀ i ∈ is, i ≠ .stat ∧ preChecksum i = none) (ht : runInstrs is s = .next t) (f : Bool) (k : Cause) :
    ∃ f' k', runInstrs is (withFaultRecord f k s) = .next (withFaultRecord f' k' t) := by
  induction is generalizing s f k with
  | nil => cases ht; exact ⟨f, k, rfl⟩
  | cons i is ih =>
    obtain ⟨⟨hi, hrow⟩, his⟩ := List.forall_mem_cons.1 his
    obtain ⟨u, hu, ht⟩ := runInstrs_cons_eq_next.1 ht
    obtain ⟨f₁, k₁, hu₁⟩ := exec_withFaultRecord hi hrow hu f k
    obtain ⟨f', k', ht'⟩ := ih his ht f₁ k₁
    exact ⟨f', k', runInstrs_cons_eq_next.2 ⟨_, hu₁, ht'⟩⟩

/-- Building a packet runs the commands of `FRAME b @ 1`, and the host collects responses alone (R191). -/
theorem buildPacket_withFaultRecord {b : List Byte} {s t : State} (ht : buildPacket block b s = .next t) (f : Bool)
    (k : Cause) : ∃ f' k', buildPacket block b (withFaultRecord f k s) = .next (withFaultRecord f' k' t) := by
  have hcommands : ∀ i ∈ pseudoFrame b (BitVec.ofNat 8 packetIndex), i ≠ .stat ∧ preChecksum i = none := by
    simp [pseudoFrame, pseudoDrain, preChecksum, or_imp, forall_and]
  rw [buildPacket, ← runInstrs_pseudoFrame] at ht ⊢
  cases hu : runInstrs (pseudoFrame b (BitVec.ofNat 8 packetIndex)) s with
  | next u =>
    obtain ⟨f', k', hu'⟩ := runInstrs_withFaultRecord hcommands hu f k
    rw [hu] at ht; cases ht
    exact ⟨f', k', by rw [hu']; rfl⟩
  | fault r => rw [hu] at ht; cases ht
  | refused r => rw [hu] at ht; cases ht

/-! ## What a recorded fault keeps (R201) -/

/-- An instruction that builds no packet and raises no fault leaves the fault record alone. -/
theorem faultRecord_of_faultCause_none {i : Instr} {s t : State} (hrow : preChecksum i = none)
    (hok : faultCause i s = none) (ht : exec i s = .next t) : t.fault = s.fault ∧ t.cause = s.cause := by
  by_cases hi : i = .stat
  · subst hi; cases ht; exact ⟨rfl, rfl⟩
  · have heq := ht.symm.trans (exec_withFaultRecord_of_faultCause_none hi hrow hok ht s.fault s.cause)
    rw [Host.Outcome.next.inj heq]
    exact ⟨rfl, rfl⟩

/-- No instruction changes a fault record that holds a fault. -/
theorem exec_keeps_faultRecord {i : Instr} {s t : State} (hf : s.fault = true) (ht : exec i s = .next t) :
    t.fault = true ∧ t.cause = s.cause := by
  cases hrow : preChecksum i with
  | some b =>
    obtain ⟨hexec, hne⟩ := exec_packet hrow s
    obtain ⟨m, kept, -, -, hrun⟩ := buildPacket_all block b s hne
    cases ht.symm.trans (hexec.trans hrun)
    exact ⟨by simp [hf], if_pos (.inl hf)⟩
  | none =>
    cases hcause : faultCause i s with
    | some code =>
      rw [exec_of_faultCause hcause] at ht; cases ht
      exact ⟨rfl, if_pos hf⟩
    | none =>
      obtain ⟨hfault, hsame⟩ := faultRecord_of_faultCause_none hrow hcause ht
      exact ⟨hfault.trans hf, hsame⟩

/-- No step but a reset changes a fault record that holds a fault. -/
theorem step_keeps_faultRecord {s t : State} (ht : step s = .next t) (hf : s.fault = true)
    (hreset : ∀ rest, s.cmd ≠ .rst :: rest) : t.fault = true ∧ t.cause = s.cause := by
  obtain ⟨-, hn⟩ | ⟨rest, hcmd, -⟩ | ⟨e, rest, i, -, -, hn⟩ | ⟨w, rest, op, -, -, hn⟩ | ⟨bytes, rest, -, -, hn⟩ :=
    step_cases s
  · cases hn.symm.trans ht
    exact ⟨hf, rfl⟩
  · exact absurd hcmd (hreset rest)
  · exact exec_keeps_faultRecord (s := setEvents rest s) hf (hn.symm.trans ht)
  · cases hn.symm.trans ht
    exact ⟨rfl, if_pos hf⟩
  · cases hn.symm.trans ht

/-- Settles O33: the record is sticky by `step_keeps_faultRecord`, and no instruction but STAT reads it. -/
theorem faultIsSticky : Obligations.FaultIsSticky := by
  refine ⟨fun s t => step_keeps_faultRecord, fun s code => ?_, fun i s t f k hi ht => ?_⟩
  · cases hf : s.fault <;> simp [raiseFault, hf]
  · obtain ⟨f', k', hexec⟩ : ∃ f' k', exec i (withFaultRecord f k s) = .next (withFaultRecord f' k' t) := by
      cases hrow : preChecksum i with
      | none => exact exec_withFaultRecord hi hrow ht f k
      | some b =>
        rw [(exec_packet hrow _).1] at ht ⊢
        exact buildPacket_withFaultRecord ht f k
    exact ⟨_, hexec, rfl⟩

/-! ## How many bytes a word's step responds (R202) -/

/-- The response bytes from s to t are as many as R202 gives a word of opcode `op`. -/
def RespondsByOpcode (op : Byte) (s t : State) : Prop :=
  ∃ bytes, t.rsp = s.rsp ++ bytes ∧ bytes.length = if isRead op then 1 else 0

/-- An illegal word responds one byte exactly if its opcode is in `READS`. -/
theorem executeIllegal_respondsByOpcode (op : Byte) (s : State) : RespondsByOpcode op s (executeIllegal op s) :=
  ⟨_, faultingCommand_rsp op .illegal s, by cases isRead op <;> rfl⟩

/-- So does a command, whether or not it faults. -/
theorem exec_respondsByOpcode {i : Instr} {w : Word16} {s t : State} (henc : encode i = .word w)
    (ht : exec i s = .next t) : RespondsByOpcode (opOf w) s t := by
  cases i with
  | gread | flen | stat => cases henc; cases ht; exact ⟨[_], rfl, rfl⟩
  | fread =>
    cases henc
    obtain ⟨v, hreads⟩ := fread_readsOnlyFrame ht
    exact ⟨[v], (hreads.rsp_g_acc ht).1, rfl⟩
  | nop | ginit | gupd => cases henc; cases ht; exact ⟨[], (List.append_nil _).symm, by rw [opOf_wordOf]; rfl⟩
  | fclr | fpush | fframe | fframee =>
    cases henc
    obtain ⟨bytes, hsilent, hreads⟩ := framer_readsOnlyFrame rfl ht
    obtain rfl : bytes = [] := hsilent (by simp) (by simp)
    exact ⟨[], (hreads.rsp_g_acc ht).1, by rw [opOf_wordOf]; rfl⟩
  | pktStatus | pktBrightness | pktMonitor | pktPid | sentinel => cases henc

/-- An illegal word is named by its opcode. -/
theorem eq_opOf_of_decodeWord_illegal {w : Word16} {op : Byte} (h : decodeWord w = .illegal op) : op = opOf w := by
  obtain ⟨i, -, hi⟩ | ⟨-, hill⟩ := decodesTo_decodeWord w
  · cases h.symm.trans hi
  · cases h.symm.trans hill
    rfl

theorem step_respondsByOpcode {s t : State} {w : Word16} {rest : List HostEvent} (hcmd : s.cmd = .word w :: rest)
    (ht : step s = .next t) : RespondsByOpcode (opOf w) s t := by
  obtain ⟨hc, -⟩ | ⟨rest', hc, -⟩ | ⟨e, rest', i, hc, hd, hn⟩ | ⟨w', rest', op, hc, hw, hn⟩ | ⟨bytes, rest', hc, -⟩ :=
    step_cases s <;> cases hcmd.symm.trans hc
  · have henc : encode i = .word w := decodeWord_eq_instr_iff.1 (by simpa [decode] using hd)
    exact exec_respondsByOpcode (s := setEvents rest s) henc (hn.symm.trans ht)
  · cases hn.symm.trans ht
    rw [← eq_opOf_of_decodeWord_illegal hw]
    exact executeIllegal_respondsByOpcode op (setEvents rest s)

/-- Settles O34: a faulting command's next state is that of `exec_of_faultCause`, an illegal word's that of
`executeIllegal`. -/
theorem responsesFollowOpcodes : Obligations.ResponsesFollowOpcodes := by
  simp only [Obligations.ResponsesFollowOpcodes, ← isRead_iff]
  refine ⟨fun i s code h => ?_, fun s w rest hcmd hw => ?_, fun s t w rest => step_respondsByOpcode⟩
  · exact ⟨_, exec_of_faultCause h, rfl, fun hi => if_pos hi, fun hi => if_neg hi⟩
  · exact ⟨_, step_illegal hcmd hw, rfl, faultingCommand_rsp _ _ _⟩

end Sys2Proof.Machine
end

section
/-! PROOF. Encoding and decoding every instruction, and what a step makes of the host's next event
(spec/30_encoding.md sections 1 to 3, spec/43_packet_formats.md section 1, spec/10_state.md R21, R22). -/

namespace Sys2Proof

/-! ## Decoding and encoding undo each other -/

/-- A packet row's bytes decode to it. -/
theorem decodePacket_of_encode {i : Instr} {bytes : List Byte} (h : encode i = .packet bytes) :
    decodePacket bytes = .instr i := by
  cases i <;> cases h <;> rfl

/-- A test of `decodePacket` that answers an instruction has passed, and answers its own. -/
theorem ite_unknownPacket_eq_instr {p : Prop} [Decidable p] {i j : Instr}
    (h : (if p then .instr j else .unknownPacket) = Decoded.instr i) : p ∧ j = i := by
  split at h
  · next hp => exact ⟨hp, Decoded.instr.inj h⟩
  · cases h

/-- Bytes that decode to a packet row are its encoding. -/
theorem encode_of_decodePacket {bytes : List Byte} {i : Instr} (h : decodePacket bytes = .instr i) :
    encode i = .packet bytes := by
  unfold decodePacket at h
  split at h
  case h_2 => cases h
  case h_1 op c r =>
    split at h
    case isTrue hop => cases h; rw [hop]; rfl
    case isFalse =>
      split at h
      case h_1 => obtain ⟨⟨rfl, rfl⟩, rfl⟩ := ite_unknownPacket_eq_instr h; rfl
      case h_2 | h_3 | h_4 => obtain ⟨rfl, rfl⟩ := ite_unknownPacket_eq_instr h; rfl
      case h_5 => cases h

theorem decodePacket_eq_instr_iff {bytes : List Byte} {i : Instr} :
    decodePacket bytes = .instr i ↔ encode i = .packet bytes :=
  ⟨encode_of_decodePacket, decodePacket_of_encode⟩

/-- Settles O2: a command's word and a packet row's bytes each decode to their instruction. -/
theorem decodeInvertsEncode : Obligations.DecodeInvertsEncode := by
  intro i
  cases he : encode i with
  | word w => rw [decode, decodeWord_of_encode he]
  | packet bytes => rw [decode, decodePacket_of_encode he]
  | rst => cases i <;> cases he

/-- Settles O3: a word's decoding and a packet's bytes each determine the event. -/
theorem encodeInvertsDecode : Obligations.EncodeInvertsDecode := by
  intro e i h
  cases e with
  | word w => exact decodeWord_eq_instr_iff.1 (by simpa [decode] using h)
  | packet bytes => exact decodePacket_eq_instr_iff.1 (by simpa [decode] using h)
  | rst => cases h

/-- Settles O1: each word and each row is computed. -/
theorem specWordsDecode : Obligations.SpecWordsDecode := by
  unfold Obligations.SpecWordsDecode
  decide +kernel

end Sys2Proof

namespace Sys2Proof.Machine

/-! ## A step on each kind of event -/

/-- A step on an event that decodes to an instruction. -/
theorem step_instr {s : State} {e : HostEvent} {rest : List HostEvent} {i : Instr} (hcmd : s.cmd = e :: rest)
    (he : decode e = .decoded (.instr i)) : step s = exec i (setEvents rest s) := by
  simp [step, takeEvent, fetch, hcmd, he]

/-- Settles O7: the encoding of an instruction is an event that decodes to it. -/
theorem stepRunsDecodedInstruction : Obligations.StepRunsDecodedInstruction :=
  ⟨fun _ _ _ _ => step_instr, fun _ i => step_instr rfl (decodeInvertsEncode i), fun _ => step_idle⟩

/-- Settles O8: bytes that encode no instruction decode to none, and no packet is an illegal word. -/
theorem unknownPacketIsRefused : Obligations.UnknownPacketIsRefused := by
  intro s bytes rest hcmd hbytes
  cases hd : decodePacket bytes with
  | instr i => exact absurd (encode_of_decodePacket hd) (hbytes i)
  | illegal op => exact absurd hd (decodePacket_ne_illegal bytes op)
  | unknownPacket => simp [step, takeEvent, fetch, decode, hcmd, hd]

end Sys2Proof.Machine
end

section
/-! PROOF. The invariant of spec/10_state.md R36 along a step, at the machine's configuration and at every other, and the
step as a function of the configuration (R21, R35). -/

namespace Sys2Proof.Machine

/-- Settles O36: reset meets the invariant at every configuration. -/
theorem invariantAtReset : Obligations.InvariantAtReset := InvAt.resetWith block

/-- Settles O37: the machine's step is the one at `block`, and that keeps the invariant, operation by operation. -/
theorem invariantKeptByStep : Obligations.InvariantKeptByStep := fun _ _ => Inv.step

/-! ## Every event the table gives a meaning completes (spec/70_reset_and_hazards.md R234, R236) -/

theorem InvAt.stepWith_completes {c : Config} {s : State} (h : InvAt c s)
    (hpacket : ∀ bytes rest, s.cmd = .packet bytes :: rest → decodePacket bytes ≠ .unknownPacket) :
    ∃ t, Machine.stepWith c s = .next t := by
  obtain ⟨-, hn⟩ | ⟨rest, -, hn⟩ | ⟨e, rest, i, -, -, hn⟩ | ⟨w, rest, op, -, -, hn⟩ | ⟨bytes, rest, hcmd, hd, -⟩ :=
    takeEvent_cases c (Machine.execWith c) s
  · exact ⟨_, hn⟩
  · exact ⟨_, hn⟩
  · have hset : InvAt c (setEvents rest s) := h.congr rfl
    obtain ⟨t, ht⟩ := hset.execWith_completes i
    exact ⟨t, hn.trans ht⟩
  · exact ⟨_, hn⟩
  · exact absurd hd (hpacket bytes rest hcmd)

theorem Inv.step_completes {s : State} (h : Inv s)
    (hpacket : ∀ bytes rest, s.cmd = .packet bytes :: rest → decodePacket bytes ≠ .unknownPacket) :
    ∃ t, Machine.step s = .next t :=
  stepWith_block ▸ InvAt.stepWith_completes h hpacket

/-- Settles O39: only bytes that are no row are refused, and no instruction stops where the invariant holds. -/
theorem everyEventCompletes : Obligations.EveryEventCompletes := fun _ => Inv.step_completes

/-! ## One command word at any configuration (spec/10_state.md R21, R35) -/

/-- R21's step answers the state a step reaches and the response it adds. -/
theorem commandStep_eq_some {c : Config} {s t : State} {w : Word16} {r : Option Byte} :
    commandStep c s w = some (t, r) ↔
      stepWith c (presentNext (.word w) s) = .next t ∧ (t.rsp.drop s.rsp.length).head? = r := by
  unfold commandStep
  cases stepWith c (presentNext (.word w) s) <;> simp
  rintro rfl
  rfl

/-- Settles O55: a word is no packet, so its step completes and keeps the invariant. -/
theorem invariantAtEveryConfiguration : Obligations.InvariantAtEveryConfiguration := by
  refine fun c => ⟨InvAt.resetWith c, fun s w h => ?_⟩
  have hpresented : InvAt c (presentNext (.word w) s) := h.congr rfl
  obtain ⟨t, ht⟩ := hpresented.stepWith_completes (by simp [presentNext])
  exact ⟨t, _, commandStep_eq_some.2 ⟨ht, rfl⟩, hpresented.stepWith ht⟩

end Sys2Proof.Machine
end

section
/-! PROOF. What each instruction can change and what it does not read: the registers' writers, the stores to `f_buf`, and
the independence of the units (spec/10_state.md sections 2 and 3, spec/20_memory.md section 1). -/

namespace Sys2Proof.Machine

/-! ## The fields an operation of unit F can change, whether or not it faults (spec/41_framer.md section 2) -/

theorem fpush_changes {c : Config} {d : Byte} {s t : State} (ht : fpush c d s = .next t) :
    ∃ m n a f k, t = { s with f_buf := m, f_len := n, f_acc := a, fault := f, cause := k } ∧
      ∀ x, x ≠ pushIndex s → m.read x = s.f_buf.read x := by
  obtain ⟨-, hn⟩ | ⟨-, -, hn⟩ | ⟨-, -, hn⟩ | ⟨-, -, hn⟩ := fpush_cases c d s <;> cases hn.symm.trans ht
  · exact ⟨_, _, _, _, _, faultingCommand_of_not_isRead rfl _ _, fun _ _ => rfl⟩
  · exact ⟨_, _, _, _, _, faultingCommand_of_not_isRead rfl _ _, fun _ _ => rfl⟩
  · exact ⟨_, _, _, _, _, rfl, fun x hx => Memory.read_write_other _ _ _ _ hx⟩

theorem fframe_changes {c : Config} {i : Byte} {s t : State} (ht : execWith c (.fframe i) s = .next t) :
    ∃ p x v r f k, t = { s with f_phase := p, f_idx := x, f_chk := v, f_rp := r, fault := f, cause := k } := by
  obtain rfl := Host.Outcome.next.inj ht
  obtain ⟨-, hn⟩ | ⟨-, -, hn⟩ | ⟨-, -, hn⟩ := fframe_cases c i s <;> rw [hn]
  · exact ⟨_, _, _, _, _, _, faultingCommand_of_not_isRead rfl _ _⟩
  · exact ⟨_, _, _, _, _, _, faultingCommand_of_not_isRead rfl _ _⟩
  · exact ⟨_, _, _, _, _, _, rfl⟩

theorem fframee_changes {c : Config} {s t : State} (ht : execWith c .fframee s = .next t) :
    ∃ p x v r f k, t = { s with f_phase := p, f_idx := x, f_chk := v, f_rp := r, fault := f, cause := k } := by
  obtain rfl := Host.Outcome.next.inj ht
  obtain ⟨-, hn⟩ | ⟨-, hn⟩ := fframee_cases c s <;> rw [hn]
  · exact ⟨_, _, _, _, _, _, faultingCommand_of_not_isRead rfl _ _⟩
  · exact ⟨_, _, _, _, _, _, rfl⟩

theorem fread_changes {s t : State} (ht : fread s = .next t) :
    ∃ v r f k, t = { s with rsp := s.rsp ++ [v], f_rp := r, fault := f, cause := k } := by
  obtain ⟨-, hn⟩ | ⟨-, -, hn⟩ | ⟨-, -, v, -, hn⟩ | ⟨-, -, -, hn⟩ := fread_cases s <;> cases hn.symm.trans ht
  · exact ⟨_, _, _, _, faultingCommand_of_isRead rfl _ _⟩
  · exact ⟨_, _, _, _, faultingCommand_of_isRead rfl _ _⟩
  · exact ⟨_, _, _, _, rfl⟩

/-! ## The writers of each register (spec/10_state.md R23, R25 to R30) -/

/-- Outside unit G `g_acc` is left alone. -/
theorem exec_keeps_g_acc {i : Instr} {s t : State} (hi : isGenerator i = false) (ht : exec i s = .next t) :
    t.g_acc = s.g_acc := by
  obtain ⟨hacc, -⟩ := execWith_g_acc_cmd ((execWith_block i s).trans ht)
  rw [hacc]
  cases i with
  | ginit | gupd | gread => cases hi
  | _ => rfl

/-- `f_len` and `f_acc` are written by FPUSH and FCLR alone. -/
theorem exec_keeps_f_len_f_acc {i : Instr} {s t : State} (hcmd : isCommand i = true) (hpush : ∀ d, i ≠ .fpush d)
    (hclr : i ≠ .fclr) (ht : exec i s = .next t) : t.f_len = s.f_len ∧ t.f_acc = s.f_acc := by
  cases i with
  | fpush d => exact absurd rfl (hpush d)
  | fclr => exact absurd rfl hclr
  | fframe => obtain ⟨p, x, v, r, f, k, rfl⟩ := fframe_changes (c := block) ht; exact ⟨rfl, rfl⟩
  | fframee => obtain ⟨p, x, v, r, f, k, rfl⟩ := fframee_changes (c := block) ht; exact ⟨rfl, rfl⟩
  | fread => obtain ⟨v, r, f, k, rfl⟩ := fread_changes ht; exact ⟨rfl, rfl⟩
  | nop | ginit | gupd | gread | flen | stat => cases ht; exact ⟨rfl, rfl⟩
  | pktStatus | pktBrightness | pktMonitor | pktPid | sentinel => cases hcmd

/-- The registers of the EMIT phase are written by FFRAME, FFRAMEE and FCLR, and `f_rp` by FREAD too. -/
theorem exec_keeps_emit_registers {i : Instr} {s t : State} (hcmd : isCommand i = true)
    (hframe : ∀ j, i ≠ .fframe j) (hframee : i ≠ .fframee) (hclr : i ≠ .fclr) (ht : exec i s = .next t) :
    t.f_phase = s.f_phase ∧ t.f_idx = s.f_idx ∧ t.f_chk = s.f_chk ∧ (i ≠ .fread → t.f_rp = s.f_rp) := by
  cases i with
  | fframe j => exact absurd rfl (hframe j)
  | fframee => exact absurd rfl hframee
  | fclr => exact absurd rfl hclr
  | fpush d => obtain ⟨m, n, a, f, k, rfl, -⟩ := fpush_changes ht; exact ⟨rfl, rfl, rfl, fun _ => rfl⟩
  | fread => obtain ⟨v, r, f, k, rfl⟩ := fread_changes ht; exact ⟨rfl, rfl, rfl, fun h => absurd rfl h⟩
  | nop | ginit | gupd | gread | flen | stat => cases ht; exact ⟨rfl, rfl, rfl, fun _ => rfl⟩
  | pktStatus | pktBrightness | pktMonitor | pktPid | sentinel => cases hcmd

/-- Of commands and the sentinel only FPUSH writes `f_buf`. -/
theorem exec_keeps_f_buf {i : Instr} {s t : State} (hpush : ∀ d, i ≠ .fpush d) (hrow : preChecksum i = none)
    (ht : exec i s = .next t) : t.f_buf = s.f_buf := by
  cases i with
  | fpush d => exact absurd rfl (hpush d)
  | fframe => obtain ⟨p, x, v, r, f, k, rfl⟩ := fframe_changes (c := block) ht; rfl
  | fframee => obtain ⟨p, x, v, r, f, k, rfl⟩ := fframee_changes (c := block) ht; rfl
  | fread => obtain ⟨v, r, f, k, rfl⟩ := fread_changes ht; rfl
  | nop | ginit | gupd | gread | fclr | flen | stat | sentinel => cases ht; rfl
  | pktStatus | pktBrightness | pktMonitor | pktPid => cases hrow

/-- No command touches the host's frame buffer. -/
theorem exec_keeps_fb {i : Instr} {s t : State} (hrow : preChecksum i = none) (hi : i ≠ .sentinel)
    (ht : exec i s = .next t) : t.fb = s.fb := by
  cases i with
  | fpush d => obtain ⟨m, n, a, f, k, rfl, -⟩ := fpush_changes ht; rfl
  | fframe => obtain ⟨p, x, v, r, f, k, rfl⟩ := fframe_changes (c := block) ht; rfl
  | fframee => obtain ⟨p, x, v, r, f, k, rfl⟩ := fframee_changes (c := block) ht; rfl
  | fread => obtain ⟨v, r, f, k, rfl⟩ := fread_changes ht; rfl
  | nop | ginit | gupd | gread | fclr | flen | stat => cases ht; rfl
  | sentinel => exact absurd rfl hi
  | pktStatus | pktBrightness | pktMonitor | pktPid => cases hrow

/-- No instruction takes an event of the host. -/
theorem exec_keeps_cmd {i : Instr} {s t : State} (ht : exec i s = .next t) : t.cmd = s.cmd :=
  (execWith_g_acc_cmd ((execWith_block i s).trans ht)).2

/-- Settles O40: each register's writers, register by register. -/
theorem registerWriters : Obligations.RegisterWriters := by
  refine fun i s t ht => ⟨fun hi => exec_keeps_g_acc hi ht, ?_,
    fun hcmd hpush hclr => exec_keeps_f_len_f_acc hcmd hpush hclr ht,
    fun hcmd hframe hframee hclr => exec_keeps_emit_registers hcmd hframe hframee hclr ht,
    fun hrow hi => exec_keeps_fb hrow hi ht, ?_, exec_keeps_cmd ht⟩
  · rintro rfl; cases ht; rfl
  · rintro rfl; cases ht; rfl

/-! ## The stores to `f_buf` (spec/20_memory.md R50) -/

/-- A packet row stores its own bytes, from index 0 on. -/
theorem exec_packet_keeps_above {i : Instr} {b : List Byte} {s t : State} (hb : preChecksum i = some b)
    (ht : exec i s = .next t) {a : Nat} (ha : b.length ≤ a) : t.f_buf.read a = s.f_buf.read a := by
  obtain ⟨hexec, hne⟩ := exec_packet hb s
  obtain ⟨m, kept, rfl, hstored, hrun⟩ := buildPacket_all block b s hne
  cases ht.symm.trans (hexec.trans hrun)
  refine hstored.above a ?_
  rw [List.length_nil, List.length_take]
  omega

/-- Settles O41: FPUSH stores at `pushIndex`, a packet row below its length, and nothing else stores. -/
theorem storesStayInPlace : Obligations.StoresStayInPlace := by
  refine fun i s t ht => ⟨fun hpush hrow a => by rw [exec_keeps_f_buf hpush hrow ht], ?_,
    fun b hb a ha => exec_packet_keeps_above hb ht ha⟩
  rintro d rfl
  obtain ⟨m, n, acc, f, k, rfl, hread⟩ := fpush_changes ht
  exact hread

/-! ## What an instruction outside unit G does not read (spec/10_state.md R23, R26) -/

/-- Another register of unit G, other responses given, and another frame buffer of the host. -/
def withOutside (g : Byte) (r fb : List Byte) (s : State) : State :=
  { s with g_acc := g, rsp := r, fb := fb }

/-- An instruction that leads from s to t, responds `bytes` and sends `sent` does so whatever unit G holds and whatever
was responded or sent before. -/
def IgnoresOutside (i : Instr) (s t : State) (bytes sent : List Byte) : Prop :=
  ∀ g r fb, exec i (withOutside g r fb s) = .next (withOutside g (r ++ bytes) (fb ++ sent) t)

theorem fpush_ignoresOutside {d : Byte} {s t : State} (ht : exec (.fpush d) s = .next t) :
    IgnoresOutside (.fpush d) s t [] [] := by
  intro g r fb
  rw [List.append_nil, List.append_nil]
  obtain ⟨hp, -⟩ | ⟨hp, hfull, -⟩ | ⟨hp, hroom, -⟩ | ⟨-, -, hn⟩ := fpush_cases block d s
  · rw [exec_fpush_of_emit hp] at ht; cases ht
    exact exec_fpush_of_emit (s := withOutside g r fb s) hp d
  · rw [exec_fpush_of_full hp hfull] at ht; cases ht
    exact exec_fpush_of_full (s := withOutside g r fb s) hp hfull d
  · rw [exec_fpush_of_room hp hroom] at ht; cases ht
    exact exec_fpush_of_room (s := withOutside g r fb s) hp hroom d
  · cases hn.symm.trans ht

theorem fframe_ignoresOutside {i : Byte} {s t : State} (ht : exec (.fframe i) s = .next t) :
    IgnoresOutside (.fframe i) s t [] [] := by
  intro g r fb
  rw [List.append_nil, List.append_nil]
  obtain ⟨hp, -⟩ | ⟨hp, hi, -⟩ | ⟨hp, hi, -⟩ := fframe_cases block i s
  · rw [exec_fframe_of_emit hp] at ht; cases ht
    exact exec_fframe_of_emit (s := withOutside g r fb s) hp i
  · rw [exec_fframe_of_badIndex hp hi] at ht; cases ht
    exact exec_fframe_of_badIndex (s := withOutside g r fb s) hp hi
  · rw [exec_fframe_of_le hp hi] at ht; cases ht
    exact exec_fframe_of_le (s := withOutside g r fb s) hp hi

theorem fframee_ignoresOutside {s t : State} (ht : exec .fframee s = .next t) : IgnoresOutside .fframee s t [] [] := by
  rw [exec_fframee_eq] at ht
  exact fun g r fb => (exec_fframee_eq _).trans (fframe_ignoresOutside ht g r fb)

theorem fread_ignoresOutside {s t : State} (ht : exec .fread s = .next t) :
    ∃ v, IgnoresOutside .fread s t [v] [] := by
  simp only [IgnoresOutside, List.append_nil]
  obtain ⟨hp, -⟩ | ⟨hp, hd, -⟩ | ⟨hp, hleft, v, hv, -⟩ | ⟨-, -, -, hn⟩ := fread_cases s
  · rw [exec_fread_of_accum hp] at ht; cases ht
    exact ⟨_, fun g r fb => exec_fread_of_accum (s := withOutside g r fb s) hp⟩
  · rw [exec_fread_of_drained hp hd] at ht; cases ht
    exact ⟨_, fun g r fb => exec_fread_of_drained (s := withOutside g r fb s) hp hd⟩
  · rw [exec_fread_of_left hp hleft hv] at ht; cases ht
    exact ⟨v, fun g r fb => exec_fread_of_left (s := withOutside g r fb s) hp hleft hv⟩
  · cases hn.symm.trans ht

theorem framer_ignoresOutside {i : Instr} {s t : State} (hi : isFramer i = true) (ht : exec i s = .next t) :
    ∃ bytes, IgnoresOutside i s t bytes [] := by
  cases i with
  | fpush d => exact ⟨[], fpush_ignoresOutside ht⟩
  | fframe i => exact ⟨[], fframe_ignoresOutside ht⟩
  | fframee => exact ⟨[], fframee_ignoresOutside ht⟩
  | fread => obtain ⟨v, hv⟩ := fread_ignoresOutside ht; exact ⟨[v], hv⟩
  | fclr => cases ht; exact ⟨[], fun g r fb => by rw [List.append_nil, List.append_nil]; rfl⟩
  | flen => cases ht; exact ⟨[s.f_len], fun g r fb => by rw [List.append_nil]; rfl⟩
  | nop | ginit | gupd | gread | stat | pktStatus | pktBrightness | pktMonitor | pktPid | sentinel => cases hi

theorem runInstrs_framers_withOutside {is : List Instr} {s t : State} (his : ∀ i ∈ is, isFramer i = true)
    (ht : runInstrs is s = .next t) :
    ∃ bytes, ∀ g r fb, runInstrs is (withOutside g r fb s) = .next (withOutside g (r ++ bytes) fb t) := by
  induction is generalizing s with
  | nil => cases ht; exact ⟨[], fun g r fb => by rw [List.append_nil]; rfl⟩
  | cons i is ih =>
    obtain ⟨hi, his⟩ := List.forall_mem_cons.1 his
    obtain ⟨u, hu, ht⟩ := runInstrs_cons_eq_next.1 ht
    obtain ⟨bytes, hbytes⟩ := framer_ignoresOutside hi hu
    obtain ⟨more, hmore⟩ := ih his ht
    refine ⟨bytes ++ more, fun g r fb => runInstrs_cons_eq_next.2 ⟨_, hbytes g r fb, ?_⟩⟩
    rw [hmore, List.append_nil, List.append_assoc]

/-- The commands of `FRAME b @ i` are unit F's. -/
theorem isFramer_of_mem_pseudoFrame {b : List Byte} {i : Byte} : ∀ j ∈ pseudoFrame b i, isFramer j = true := by
  simp [pseudoFrame, pseudoDrain, isFramer, or_imp, forall_and]

/-- The host sends exactly what the block responds to the commands of `FRAME b @ 1` (R191). -/
theorem buildPacket_eq_next {b : List Byte} {s t : State} :
    buildPacket block b s = .next t ↔ ∃ u, runInstrs (pseudoFrame b 1) s = .next u ∧ t = collectResponses s u := by
  have hidx : BitVec.ofNat 8 packetIndex = 1 := rfl
  rw [buildPacket, hidx, ← runInstrs_pseudoFrame]
  cases runInstrs (pseudoFrame b 1) s <;> simp [andThen, eq_comm]

theorem packet_ignoresOutside {i : Instr} {b : List Byte} {s t : State} (hb : preChecksum i = some b)
    (ht : exec i s = .next t) : ∃ bytes, IgnoresOutside i s t bytes bytes := by
  rw [(exec_packet hb s).1] at ht
  obtain ⟨u, hu, rfl⟩ := buildPacket_eq_next.1 ht
  obtain ⟨bytes, hbytes⟩ := runInstrs_framers_withOutside isFramer_of_mem_pseudoFrame hu
  refine ⟨bytes, fun g r fb => (exec_packet hb _).1.trans (buildPacket_eq_next.2 ⟨_, hbytes g r fb, ?_⟩)⟩
  simp [collectResponses, appendFrameBuffer, withOutside]

/-- Every instruction outside unit G ignores what lies outside unit F. -/
theorem exec_ignoresOutside {i : Instr} {s t : State} (hi : isGenerator i = false) (ht : exec i s = .next t) :
    ∃ bytes sent, IgnoresOutside i s t bytes sent := by
  cases i with
  | ginit | gupd | gread => cases hi
  | fclr | fpush | fframe | fframee | fread | flen =>
    obtain ⟨bytes, h⟩ := framer_ignoresOutside rfl ht
    exact ⟨bytes, [], h⟩
  | pktStatus | pktBrightness | pktMonitor | pktPid =>
    obtain ⟨bytes, h⟩ := packet_ignoresOutside rfl ht
    exact ⟨bytes, bytes, h⟩
  | nop => cases ht; exact ⟨[], [], fun g r fb => by rw [List.append_nil, List.append_nil]; rfl⟩
  | stat => cases ht; exact ⟨[statByte block s], [], fun g r fb => by rw [List.append_nil]; rfl⟩
  | sentinel => cases ht; exact ⟨[], [0xEE, 0x00], fun g r fb => by rw [List.append_nil]; rfl⟩

/-- So what it responds and sends is what it adds. -/
theorem IgnoresOutside.eq_withOutside {i : Instr} {s t : State} {bytes sent : List Byte}
    (h : IgnoresOutside i s t bytes sent) (ht : exec i s = .next t) (g : Byte) :
    withOutside g (s.rsp ++ bytes) (s.fb ++ sent) t = { t with g_acc := g } := by
  have heq := Host.Outcome.next.inj (ht.symm.trans (h s.g_acc s.rsp s.fb))
  have hrsp : t.rsp = s.rsp ++ bytes := congrArg State.rsp heq
  have hfb : t.fb = s.fb ++ sent := congrArg State.fb heq
  rw [← hrsp, ← hfb]
  rfl

/-- Settles O42: instructions outside unit G ignore what lies outside unit F, and unit G's read `g_acc` alone. -/
theorem unitsAreIndependent : Obligations.UnitsAreIndependent := by
  refine ⟨fun i s t g hi ht => ?_, fun i s t u hi ht hu => ?_⟩
  · obtain ⟨bytes, sent, h⟩ := exec_ignoresOutside hi ht
    exact (h g s.rsp s.fb).trans (congrArg _ (h.eq_withOutside ht g))
  · cases i with
    | ginit | gupd | gread => cases ht; rw [hu]; rfl
    | _ => cases hi

/-! ## One command word's response at any configuration (spec/10_state.md R21) -/

/-- A command responds one byte exactly if its opcode is in `READS`, at every configuration. -/
theorem execWith_respondsByOpcode {c : Config} {i : Instr} {w : Word16} {s t : State} (henc : encode i = .word w)
    (ht : execWith c i s = .next t) : RespondsByOpcode (opOf w) s t := by
  have hsilent {op arg : Byte} (hop : isRead op = false) (hw : w = wordOf op arg) (hrsp : t.rsp = s.rsp) :
      RespondsByOpcode (opOf w) s t := ⟨[], by rw [hrsp, List.append_nil], by rw [hw, opOf_wordOf, hop]; rfl⟩
  cases i with
  | gread | flen | stat => cases henc; cases ht; exact ⟨[_], rfl, rfl⟩
  | fread => cases henc; obtain ⟨v, r, f, k, rfl⟩ := fread_changes ht; exact ⟨[v], rfl, rfl⟩
  | nop | ginit | gupd | fclr => cases henc; cases ht; exact hsilent rfl rfl rfl
  | fpush => cases henc; obtain ⟨m, n, a, f, k, rfl, -⟩ := fpush_changes ht; exact hsilent rfl rfl rfl
  | fframe => cases henc; obtain ⟨p, x, v, r, f, k, rfl⟩ := fframe_changes ht; exact hsilent rfl rfl rfl
  | fframee => cases henc; obtain ⟨p, x, v, r, f, k, rfl⟩ := fframee_changes ht; exact hsilent rfl rfl rfl
  | pktStatus | pktBrightness | pktMonitor | pktPid | sentinel => cases henc

/-- A step on a word takes the word and responds by its opcode. -/
theorem stepWith_word {c : Config} {s t : State} {w : Word16} {rest : List HostEvent} (hcmd : s.cmd = .word w :: rest)
    (ht : stepWith c s = .next t) : t.cmd = rest ∧ RespondsByOpcode (opOf w) s t := by
  obtain ⟨hc, -⟩ | ⟨rest', hc, -⟩ | ⟨e, rest', i, hc, hd, hn⟩ | ⟨w', rest', op, hc, hw, hn⟩ | ⟨bytes, rest', hc, -⟩ :=
    takeEvent_cases c (execWith c) s <;> cases hcmd.symm.trans hc
  · have henc : encode i = .word w := encodeInvertsDecode _ _ hd
    have hexec := hn.symm.trans ht
    exact ⟨(execWith_g_acc_cmd hexec).2, execWith_respondsByOpcode (s := setEvents rest s) henc hexec⟩
  · cases hn.symm.trans ht
    rw [← eq_opOf_of_decodeWord_illegal hw]
    exact ⟨rfl, executeIllegal_respondsByOpcode op (setEvents rest s)⟩

/-- Settles O54: a word's step adds no byte or one, and returns the byte it adds. -/
theorem stepTakesConfiguration : Obligations.StepTakesConfiguration := by
  refine ⟨execWith_block, fun s => congrFun stepWith_block s, fun c s t w r h => ?_⟩
  obtain ⟨ht, rfl⟩ := commandStep_eq_some.1 h
  obtain ⟨hrest, bytes, hrsp, hlen⟩ := stepWith_word (s := presentNext (.word w) s) rfl ht
  have hadded : t.rsp.drop s.rsp.length = bytes := by rw [hrsp]; exact List.drop_left
  rw [hadded]
  refine ⟨hrest, ?_, ?_⟩
  · have hone : bytes.length ≤ 1 := by rw [hlen]; split <;> decide
    rw [hrsp]
    match bytes, hone with
    | [], _ => rfl
    | [v], _ => rfl
  · cases hread : isRead (opOf w) <;> rw [hread] at hlen
    · rw [List.length_eq_zero_iff.1 hlen]; rfl
    · obtain ⟨v, rfl⟩ := List.length_eq_one_iff.1 hlen; rfl

end Sys2Proof.Machine
end

section
/-! PROOF. The fault table and reset (spec/60_exceptions.md sections 1 and 2, spec/70_reset_and_hazards.md section 1). -/

namespace Sys2Proof.Machine

/-! ## Which instructions record a cause (R200, R203) -/

/-- A row that does not fit has a pre-checksum buffer longer than `f_buf`. -/
theorem exists_preChecksum_of_not_fits {c : Config} {i : Instr} (h : fits c i = false) :
    ∃ b, preChecksum i = some b ∧ c.bufBytes < b.length := by
  cases hb : preChecksum i with
  | none => simp [fits, hb] at h
  | some b => exact ⟨b, rfl, by simpa [fits, hb] using h⟩

/-- An instruction without a cause in the table that fits `f_buf` leaves the fault record. -/
theorem exec_keeps_faultRecord_of_fits {i : Instr} {s t : State} (hok : faultCause i s = none)
    (hfits : fits block i = true) (ht : exec i s = .next t) : t.fault = s.fault ∧ t.cause = s.cause := by
  cases hrow : preChecksum i with
  | none => exact faultRecord_of_faultCause_none hrow hok ht
  | some b =>
    obtain ⟨hexec, hne⟩ := exec_packet hrow s
    obtain ⟨m, -, hm⟩ := buildPacket_next block b s ((fits_iff block hrow).1 hfits) hne
    cases ht.symm.trans (hexec.trans hm)
    exact ⟨rfl, rfl⟩

/-- A row that does not fit records the OVERFLOW of its FPUSHes (log entry 5). -/
theorem exec_of_not_fits {i : Instr} {s : State} (h : fits block i = false) : ∃ t, exec i s = .next t ∧
    t.fault = true ∧ t.cause = if s.fault then s.cause else .overflow := by
  obtain ⟨b, hb, hlong⟩ := exists_preChecksum_of_not_fits h
  obtain ⟨m, -, hm⟩ := buildPacket_overlong block b s hlong
  exact ⟨_, (exec_packet hb s).1.trans hm, rfl, rfl⟩

/-- A word that decodes to no instruction is illegal, and named by its opcode. -/
theorem decodeWord_eq_illegal_of_forall_ne {w : Word16} (h : ∀ i, decodeWord w ≠ .instr i) :
    decodeWord w = .illegal (opOf w) := by
  obtain ⟨i, -, hi⟩ | ⟨-, hill⟩ := decodesTo_decodeWord w
  · exact absurd hi (h i)
  · exact hill

/-- Settles O32: commands by the table, rows by whether they fit, and words by whether they decode. -/
theorem faultTable : Obligations.FaultTable := by
  refine ⟨fun i s code => exec_of_faultCause, fun i s t => exec_keeps_faultRecord_of_fits,
    fun i s => exec_of_not_fits, fun s w rest hcmd hw => ?_, rfl, rfl, rfl, rfl, rfl, rfl, fun k => ?_⟩
  · exact ⟨_, step_illegal hcmd (decodeWord_eq_illegal_of_forall_ne hw), rfl, rfl⟩
  · cases k <;> decide

/-! ## Reset (R230) -/

theorem step_reset {s : State} {rest : List HostEvent} (hcmd : s.cmd = .rst :: rest) :
    step s = .next (assertReset block (setEvents rest s)) := by
  simp [step, takeEvent, fetch, decode, hcmd]

/-- Settles O35: the values are R230's, and a step that clears `fault` is none that `step_keeps_faultRecord` speaks of. -/
theorem resetState : Obligations.ResetState := by
  refine ⟨⟨rfl, rfl, rfl, rfl, rfl, rfl, rfl, rfl, rfl⟩, fun s rest hcmd => ⟨_, step_reset hcmd, rfl⟩, ?_, ?_, rfl,
    fun s t ht hf hclear => ?_⟩
  · have hstat : statByte block State.reset = 0x00 := statByte_resetWith block
    rw [exec_stat, hstat]
    rfl
  · have hread : crcFinal block.profile State.reset.g_acc = 0xFF := crc_empty
    rw [exec_gread, hread]
    rfl
  · by_contra hreset
    obtain ⟨hset, -⟩ := step_keeps_faultRecord ht hf (not_exists.1 hreset)
    rw [hset] at hclear
    cases hclear

end Sys2Proof.Machine
end

section
/-! PROOF. The configuration's parameters and the alternative profile (spec/00_scope.md section 3, spec/90_conflicts.md
C1). -/

namespace Sys2Proof.Machine

/-- The longest pre-checksum buffer with N = 1 for brightness is PID's (R5). -/
theorem preChecksum_length_le_six {i : Instr} {b : List Byte} (hb : preChecksum i = some b)
    (hbright : ∀ c r, i = .pktBrightness c r → r.length = 1) : b.length ≤ 6 := by
  cases i with
  | pktBrightness c r =>
    cases hb
    rw [List.length_cons, hbright c r rfl]
    decide
  | pktStatus | pktMonitor | pktPid => cases hb; simp
  | nop | ginit | gupd | gread | fclr | fpush | fframe | fframee | fread | flen | stat | sentinel => cases hb

/-- Settles O50: the widths and bounds are the proofs a configuration carries. -/
theorem configurationParameters : Obligations.ConfigurationParameters :=
  ⟨fun c => ⟨c.crcWidthIs, c.commandWidthIs, c.responseWidthIs, c.indexWidthIs, c.bufMin, c.bufMax⟩, rfl, rfl, rfl, rfl,
   rfl, fun _ _ => preChecksum_length_le_six, .pktPid 0 0 0 0 0 0, _, rfl, rfl⟩

/-- Settles O14: the three values are computed. -/
theorem alternativeProfileValues : Obligations.AlternativeProfileValues := by
  unfold Obligations.AlternativeProfileValues
  decide +kernel

end Sys2Proof.Machine
end

section
/-! PROOF. Packets: their lengths, the check of a packet, splitting a frame buffer, and building the rows on the block
(spec/43_packet_formats.md). -/

namespace Sys2Proof

/-! ## The lengths byte 0 implies (R187) -/

theorem packetLength_eq (n : Nat) (op : Byte) : packetLength n op =
    if op = 0x1F then some 4 else if op = 0xAA then some (n + 2) else if op = 0xAB then some 5
    else if op = 0xAC then some 7 else none := by
  unfold packetLength
  split
  case h_1 hop => obtain rfl : op = 0x1F := BitVec.eq_of_toNat_eq hop; rfl
  case h_2 hop => obtain rfl : op = 0xAA := BitVec.eq_of_toNat_eq hop; rfl
  case h_3 hop => obtain rfl : op = 0xAB := BitVec.eq_of_toNat_eq hop; rfl
  case h_4 hop => obtain rfl : op = 0xAC := BitVec.eq_of_toNat_eq hop; rfl
  case h_5 h1 h2 h3 h4 =>
    rw [if_neg fun h => h1 (congrArg BitVec.toNat h), if_neg fun h => h2 (congrArg BitVec.toNat h),
      if_neg fun h => h3 (congrArg BitVec.toNat h), if_neg fun h => h4 (congrArg BitVec.toNat h)]

end Sys2Proof

namespace Sys2Proof.Machine

theorem preChecksumLength_eq (n : Nat) (op : Byte) : preChecksumLength n op =
    if op = 0x1F then some 3 else if op = 0xAA then some (n + 1) else if op = 0xAB then some 4
    else if op = 0xAC then some 6 else none := by
  rw [preChecksumLength, packetLength_eq]
  simp only [apply_ite (Option.map (· - 1)), Option.map_some, Option.map_none, Nat.add_one_sub_one]

/-- Settles O56: the lengths by opcode, and row by row. -/
theorem packetLengths : Obligations.PacketLengths := by
  refine ⟨packetLength_eq, preChecksumLength_eq, fun n i b bytes hb henc hbright => ?_⟩
  cases i with
  | pktBrightness c r => cases hb; cases henc; cases hbright c r rfl; exact ⟨0xAA, rfl, rfl, rfl, rfl⟩
  | pktStatus => cases hb; cases henc; exact ⟨0x1F, rfl, rfl, rfl, rfl⟩
  | pktMonitor => cases hb; cases henc; exact ⟨0xAB, rfl, rfl, rfl, rfl⟩
  | pktPid => cases hb; cases henc; exact ⟨0xAC, rfl, rfl, rfl, rfl⟩
  | nop | ginit | gupd | gread | fclr | fpush | fframe | fframee | fread | flen | stat | sentinel => cases hb

/-! ## The check of a packet (R189) -/

/-- At index 1 the checksum stands after byte 0 (R180). -/
theorem frame_one (p : Profile) (op : Byte) (rest : List Byte) :
    frame p (op :: rest) 1 = some (op :: crc p (op :: rest) :: rest) :=
  if_pos (Nat.le_add_left 1 rest.length)

/-- Settles O49: the check compares byte 1 with what `Frame` puts there. -/
theorem intactPacketsAreFrames : Obligations.IntactPacketsAreFrames := by
  intro n p bytes
  simp only [frame_one, Option.some.injEq]
  match bytes with
  | [] => simp [packetIntact]
  | [op] => simp [packetIntact]
  | op :: c :: rest =>
    simp only [packetIntact, Bool.and_eq_true, beq_iff_eq, List.cons.injEq]
    constructor
    · rintro ⟨hlen, rfl⟩
      exact ⟨op, rest, hlen, rfl, rfl, rfl⟩
    · rintro ⟨op', rest', hlen, rfl, rfl, rfl⟩
      exact ⟨hlen, rfl⟩

/-! ## Splitting a byte stream (R187) -/

/-- A packet of the length its byte 0 implies is split off whole. -/
theorem splitPacket_append {n : Nat} {op : Byte} {q : List Byte} (hlen : packetLength n op = some (op :: q).length)
    (more : List Byte) : splitPacket n (op :: q ++ more) = some (op :: q, more) := by
  have hle : (op :: q).length ≤ (op :: q ++ more).length := by simp
  rw [List.cons_append, splitPacket, hlen]
  simp only
  rw [← List.cons_append, if_pos hle, List.take_left, List.drop_left]

/-- A stream of packets, each of the length its byte 0 implies, splits into them. -/
theorem splitPackets_flatten {n count : Nat} {packets : List (List Byte)} (hcount : packets.length ≤ count)
    (hlen : ∀ q ∈ packets, ∃ op rest, q = op :: rest ∧ packetLength n op = some q.length) :
    splitPackets n count packets.flatten = some packets := by
  induction packets generalizing count with
  | nil => rw [List.flatten_nil, splitPackets]
  | cons q packets ih =>
    obtain ⟨⟨op, rest, rfl, hq⟩, hmore⟩ := List.forall_mem_cons.1 hlen
    obtain ⟨count, rfl⟩ := Nat.exists_eq_add_one_of_ne_zero (Nat.ne_of_gt (Nat.lt_of_lt_of_le (Nat.succ_pos _) hcount))
    have hsplit := splitPacket_append hq packets.flatten
    rw [List.flatten_cons, List.cons_append, splitPackets, ← List.cons_append, hsplit]
    simp only
    rw [ih (Nat.le_of_succ_le_succ hcount) hmore, Option.map_some]

/-- Settles O48: the parts are frames at index 1, which the check accepts and which split off by their lengths. -/
theorem frameBufferSplits : Obligations.FrameBufferSplits := by
  refine ⟨fun p b0 m0 m1 m2 p0 p1 p2 p3 => rfl, fun p r m0 m1 m2 p0 p1 p2 p3 => ?_⟩
  have hintact {op : Byte} {rest : List Byte} (hlen : packetLength r.length op = some (rest.length + 2)) :
      packetIntact r.length p (op :: crc p (op :: rest) :: rest) = true :=
    (intactPacketsAreFrames _ _ _).2 ⟨op, rest, hlen, frame_one p op rest⟩
  refine ⟨by simp [frameBuffer], _, _, _, _, frame_one _ _ _, frame_one _ _ _, frame_one _ _ _, frame_one _ _ _, rfl,
    rfl, rfl, rfl, rfl, ?_, hintact rfl, hintact rfl, hintact rfl, hintact rfl⟩
  have hflat : frameBuffer p r m0 m1 m2 p0 p1 p2 p3 = List.flatten
      [[0x1F, crc p [0x1F, 0xF0, 0x00], 0xF0, 0x00], 0xAA :: crc p (0xAA :: r) :: r,
        [0xAB, crc p [0xAB, m0, m1, m2], m0, m1, m2],
        [0xAC, crc p [0xAC, p0, p1, 0xDE, p2, p3], p0, p1, 0xDE, p2, p3]] := by
    simp [frameBuffer]
  rw [hflat]
  refine splitPackets_flatten (Nat.le_refl 4) ?_
  simp only [List.forall_mem_cons]
  exact ⟨⟨_, _, rfl, rfl⟩, ⟨_, _, rfl, rfl⟩, ⟨_, _, rfl, rfl⟩, ⟨_, _, rfl, rfl⟩, nofun⟩

/-! ## What a packet row builds (R180 to R184, R191; log entry 5) -/

/-- Settles O44: a row is `buildPacket` of its buffer, which fits or does not. -/
theorem packetRowsBuildFrames : Obligations.PacketRowsBuildFrames := by
  refine ⟨fun i b s hb hfit => ?_, fun i b s hb hlong => ?_⟩
  · obtain ⟨hexec, hne⟩ := exec_packet hb s
    obtain ⟨m, hstored, hm⟩ := buildPacket_next block b s hfit hne
    exact ⟨_, _, hexec.trans hm, if_pos hne, by simpa using hstored.bytes, rfl, rfl⟩
  · obtain ⟨m, hstored, hm⟩ := buildPacket_overlong block b s hlong
    have hmin := block.bufMin
    have hkept : (b.take block.bufBytes).length = block.bufBytes := by rw [List.length_take]; omega
    exact ⟨_, _, (exec_packet hb s).1.trans hm, if_pos (by omega), by simpa [hkept] using hstored.bytes, rfl, rfl⟩

/-- The bytes a row is presented as (R181 to R184, R188). -/
def rowBytes (i : Instr) : List Byte :=
  match encode i with
  | .packet bytes => bytes
  | .word _ | .rst => []

/-- A row whose fixed bytes and checksum byte are those of its layout, and that fits, is well-formed. -/
theorem wellFormed_of_checksum {i : Instr} {b : List Byte} (hfixed : fixedBytesOk i = true)
    (hb : preChecksum i = some b) (hchk : checksumByte i = some (crc block.profile b))
    (hfit : b.length ≤ block.bufBytes) : WellFormed i = true := by
  simp [WellFormed, hfixed, checksumOk, hchk, hb, (fits_iff block hb).2 hfit]

/-- A well-formed row is the frame of its pre-checksum buffer, which fits. -/
theorem frame_of_wellFormed {i : Instr} {b : List Byte} (hwf : WellFormed i = true) (hb : preChecksum i = some b) :
    frame block.profile b 1 = some (rowBytes i) ∧ b.length ≤ block.bufBytes := by
  simp only [WellFormed, checksumOk, hb, fits_iff block hb, Option.map_some, Bool.and_eq_true, beq_iff_eq] at hwf
  obtain ⟨⟨-, hchk⟩, hfit⟩ := hwf
  refine ⟨?_, hfit⟩
  cases i with
  | pktStatus | pktBrightness | pktMonitor | pktPid => cases hb; cases hchk; exact frame_one _ _ _
  | nop | ginit | gupd | gread | fclr | fpush | fframe | fframee | fread | flen | stat | sentinel => cases hb

theorem exec_sentinel (s : State) : exec .sentinel s = .next { s with fb := s.fb ++ [0xEE, 0x00] } := rfl

/-- A well-formed row of packet format adds its own bytes to the frame buffer, and but for the raw sentinel they are
what the block responds. -/
theorem exec_row {i : Instr} (hrow : isCommand i = false) (hwf : WellFormed i = true) (s : State) :
    ∃ t, exec i s = .next t ∧ t.fb = s.fb ++ rowBytes i ∧ (i ≠ .sentinel → t.rsp = s.rsp ++ rowBytes i) := by
  cases hb : preChecksum i with
  | some b =>
    obtain ⟨hframe, hfit⟩ := frame_of_wellFormed hwf hb
    obtain ⟨t, f, ht, hf, -, heq, -⟩ := packetRowsBuildFrames.1 i b s hb hfit
    obtain rfl := Option.some.inj (hf.symm.trans hframe)
    exact ⟨t, ht, congrArg State.fb heq, fun _ => (congrArg State.rsp heq :)⟩
  | none =>
    cases i with
    | sentinel => exact ⟨_, exec_sentinel s, rfl, fun h => absurd rfl h⟩
    | pktStatus | pktBrightness | pktMonitor | pktPid => cases hb
    | nop | ginit | gupd | gread | fclr | fpush | fframe | fframee | fread | flen | stat => cases hrow

/-- Only packet rows are presented as packets. -/
theorem rowBytes_of_encode {i : Instr} {bytes : List Byte} (h : encode i = .packet bytes) :
    isCommand i = false ∧ rowBytes i = bytes := by
  refine ⟨?_, by rw [rowBytes, h]⟩
  cases i <;> cases h <;> rfl

/-- Settles O45: a well-formed row adds its own bytes, which are those of its encoding. -/
theorem wellFormedRowsEmitTheirBytes : Obligations.WellFormedRowsEmitTheirBytes := by
  intro i bytes s hwf henc
  obtain ⟨hrow, rfl⟩ := rowBytes_of_encode henc
  obtain ⟨t, ht, hfb, -⟩ := exec_row hrow hwf s
  exact ⟨t, ht, hfb⟩

/-- Settles O46: the sentinel's meaning appends its bytes, and the frame is computed. -/
theorem sentinelIsRaw : Obligations.SentinelIsRaw := ⟨exec_sentinel, by decide +kernel⟩

/-! ## A list of rows (R186, R188) -/

/-- Well-formed rows of packet format add their own bytes, in order. -/
theorem runInstrs_rows {is : List Instr} (h : ∀ i ∈ is, isCommand i = false ∧ WellFormed i = true) (s : State) :
    ∃ t, runInstrs is s = .next t ∧ t.fb = s.fb ++ is.flatMap rowBytes ∧
      (.sentinel ∉ is → t.rsp = s.rsp ++ is.flatMap rowBytes) := by
  induction is generalizing s with
  | nil => exact ⟨s, rfl, (List.append_nil _).symm, fun _ => (List.append_nil _).symm⟩
  | cons i is ih =>
    obtain ⟨⟨hrow, hwf⟩, h⟩ := List.forall_mem_cons.1 h
    obtain ⟨u, hu, hfb, hrsp⟩ := exec_row hrow hwf s
    obtain ⟨t, ht, htfb, htrsp⟩ := ih h u
    refine ⟨t, runInstrs_cons_eq_next.2 ⟨u, hu, ht⟩, ?_, fun hmem => ?_⟩
    · rw [htfb, hfb, List.flatMap_cons, List.append_assoc]
    · obtain ⟨hi, hmem⟩ := not_or.1 (List.mem_cons.not.1 hmem)
      rw [htrsp hmem, hrsp (Ne.symm hi), List.flatMap_cons, List.append_assoc]

theorem wellFormed_statusPacket : WellFormed (statusPacket block.profile) = true :=
  wellFormed_of_checksum rfl rfl rfl (fits_of_le_six (by simp))

theorem wellFormed_brightnessPacket {r : List Byte} (hfit : r.length + 1 ≤ block.bufBytes) :
    WellFormed (brightnessPacket block.profile r) = true :=
  wellFormed_of_checksum rfl rfl rfl hfit

theorem wellFormed_monitorPacket (r0 r1 r2 : Byte) : WellFormed (monitorPacket block.profile r0 r1 r2) = true :=
  wellFormed_of_checksum rfl rfl rfl (fits_of_le_six (by simp))

theorem wellFormed_pidPacket (r0 r1 r2 r3 : Byte) : WellFormed (pidPacket block.profile r0 r1 r2 r3) = true :=
  wellFormed_of_checksum rfl rfl rfl (fits_of_le_six (by simp))

/-- The rows of one iteration are well-formed, if the brightness packet fits. -/
theorem emitterIteration_rows {r : List Byte} (hfit : r.length + 1 ≤ block.bufBytes) (m0 m1 m2 p0 p1 p2 p3 : Byte) :
    ∀ i ∈ emitterIteration block.profile r m0 m1 m2 p0 p1 p2 p3, isCommand i = false ∧ WellFormed i = true := by
  simp only [emitterIteration, List.forall_mem_cons]
  exact ⟨⟨rfl, wellFormed_statusPacket⟩, ⟨rfl, wellFormed_brightnessPacket hfit⟩, ⟨rfl, wellFormed_monitorPacket _ _ _⟩,
    ⟨rfl, wellFormed_pidPacket _ _ _ _⟩, nofun⟩

/-- The bytes of one iteration's rows are the frame buffer (R186). -/
theorem emitterIteration_flatMap_rowBytes (p : Profile) (r : List Byte) (m0 m1 m2 p0 p1 p2 p3 : Byte) :
    (emitterIteration p r m0 m1 m2 p0 p1 p2 p3).flatMap rowBytes = frameBuffer p r m0 m1 m2 p0 p1 p2 p3 := by
  simp [emitterIteration, statusPacket, brightnessPacket, monitorPacket, pidPacket, rowBytes, encode, frameBuffer]

/-! ## A row is `FRAME b @ 1` (R80, R191) -/

/-- Commands of unit F leave the host's frame buffer. -/
theorem runInstrs_framers_keep_fb {is : List Instr} {s t : State} (his : ∀ i ∈ is, isFramer i = true)
    (ht : runInstrs is s = .next t) : t.fb = s.fb := by
  obtain ⟨bytes, hbytes⟩ := runInstrs_framers_withOutside his ht
  have heq := Host.Outcome.next.inj (ht.symm.trans (hbytes s.g_acc s.rsp s.fb))
  exact (congrArg State.fb heq :)

/-- The effect of a packet row is that of the commands `FRAME b @ 1`, with their responses sent. -/
theorem exec_packet_eq_pseudoFrame {i : Instr} {b : List Byte} (hb : preChecksum i = some b) (s : State) :
    ∃ t, runInstrs (pseudoFrame b 1) s = .next t ∧
      exec i s = .next { t with fb := s.fb ++ t.rsp.drop s.rsp.length } := by
  obtain ⟨hexec, hne⟩ := exec_packet hb s
  obtain ⟨m, kept, -, -, hrun⟩ := buildPacket_all block b s hne
  obtain ⟨t, ht, hcollect⟩ := buildPacket_eq_next.1 hrun
  refine ⟨t, ht, (hexec.trans hrun).trans (congrArg _ (hcollect.trans ?_))⟩
  rw [collectResponses, appendFrameBuffer, runInstrs_framers_keep_fb isFramer_of_mem_pseudoFrame ht]

/-- `FRAME` of n bytes is FCLR, n pushes, FFRAME and n + 1 reads. -/
theorem pseudoFrame_length (b : List Byte) (i : Byte) : (pseudoFrame b i).length = 2 * b.length + 3 := by
  simp [pseudoFrame, pseudoDrain]
  omega

/-- Settles O47: a row runs its commands, and the rows of an iteration add the frame buffer. -/
theorem frameBufferIsBuilt : Obligations.FrameBufferIsBuilt := by
  refine ⟨fun i b s hb => exec_packet_eq_pseudoFrame hb s, pseudoFrame_length, fun r m0 m1 m2 p0 p1 p2 p3 hr => ?_,
    fun s r m0 m1 m2 p0 p1 p2 p3 hfit => ?_⟩
  · obtain ⟨x, rfl⟩ := List.length_eq_one_iff.1 hr
    simp only [pseudoFrame_length]
    rfl
  · obtain ⟨t, ht, hfb, hrsp⟩ := runInstrs_rows (emitterIteration_rows hfit m0 m1 m2 p0 p1 p2 p3) s
    rw [emitterIteration_flatMap_rowBytes] at hfb hrsp
    refine ⟨t, ht, hfb, hrsp ?_⟩
    simp [emitterIteration, statusPacket, brightnessPacket, monitorPacket, pidPacket]

/-! ## The emitter (R188, R190) -/

/-- The writes and the pad-delays alternate, from a write on. -/
theorem initPhase_getElem? {k : Nat} {a : EmitterAct} (h : initPhase[k]? = some a) :
    if k % 2 = 0 then ∃ rows, a = .write rows else a = .padDelay Config.freePadDelay := by
  rw [initPhase, List.getElem?_intersperse] at h
  split at h
  · next heven =>
    rw [List.getElem?_map, Option.map_eq_some_iff] at h
    obtain ⟨rows, -, rfl⟩ := h
    rw [if_pos heven]
    exact ⟨rows, rfl⟩
  · next hodd =>
    rw [if_neg hodd]
    split at h <;> cases h
    rfl

/-- The fixed packets are well-formed rows. -/
theorem initPacket_row (k : Fin 4) : isCommand (initPacket k) = false ∧ WellFormed (initPacket k) = true := by
  have hfit : [Config.freeInitBrightness].length + 1 ≤ block.bufBytes := Nat.le_trans (by simp) block.bufMin
  match k with
  | 0 => exact ⟨rfl, wellFormed_statusPacket⟩
  | 1 => exact ⟨rfl, wellFormed_brightnessPacket hfit⟩
  | 2 => exact ⟨rfl, wellFormed_monitorPacket _ _ _⟩
  | 3 => exact ⟨rfl, wellFormed_pidPacket _ _ _ _⟩

/-- So are the rows of the init phase. -/
theorem initRows_rows : ∀ i ∈ initRows, isCommand i = false ∧ WellFormed i = true := by
  refine List.forall_mem_cons.2 ⟨⟨rfl, by decide⟩, fun i hi => ?_⟩
  obtain ⟨k, rfl⟩ := (List.mem_ofFn' _ _).1 hi
  exact initPacket_row _

/-- So are the rows of the loop. -/
theorem drawnIteration_rows (draws : List Draws) :
    ∀ i ∈ draws.flatMap drawnIteration, isCommand i = false ∧ WellFormed i = true := by
  intro i hi
  obtain ⟨d, -, hd⟩ := List.mem_flatMap.1 hi
  exact emitterIteration_rows (Nat.le_trans (by simp) block.bufMin) _ _ _ _ _ _ _ i hd

/-- Each iteration's rows are its frame buffer. -/
theorem flatMap_drawnIteration_rowBytes (draws : List Draws) :
    (draws.flatMap drawnIteration).flatMap rowBytes = draws.flatMap drawnFrameBuffer := by
  rw [List.flatMap_assoc]
  exact congrArg (draws.flatMap ·) (funext fun d => emitterIteration_flatMap_rowBytes _ _ _ _ _ _ _ _ _)

/-- Settles O53: the rows written are those of the init phase and of the loop, and each adds its bytes. -/
theorem initWritePrecedesLoop : Obligations.InitWritePrecedesLoop := by
  refine ⟨⟨splitWrites_flatten _ _ _, splitWrites_length _ _ _, splitWrites_head _ _ _ _⟩,
    fun k a => initPhase_getElem?, fun s draws => ?_, _, _, _, _, frame_one _ _ _, frame_one _ _ _, frame_one _ _ _,
    frame_one _ _ _, fun s draws => ?_⟩
  · have hrows : writtenRows (emitter false draws) = draws.flatMap drawnIteration := writtenRows_emitterLoop draws
    obtain ⟨t, ht, hfb, -⟩ := runInstrs_rows (drawnIteration_rows draws) s
    exact ⟨t, hrows ▸ ht, by rw [hfb, flatMap_drawnIteration_rowBytes]⟩
  · have hrows : writtenRows (emitter true draws) = initRows ++ draws.flatMap drawnIteration := by
      rw [emitter, if_pos rfl, writtenRows_append, writtenRows_initPhase, writtenRows_emitterLoop]
    obtain ⟨t, ht, hfb, -⟩ := runInstrs_rows
      (List.forall_mem_append.2 ⟨initRows_rows, drawnIteration_rows draws⟩) s
    have hinit : initRows.flatMap rowBytes = [0xEE, 0x00] ++ (initRows.tail.map rowBytes).flatten := by
      rw [← List.flatMap_def]
      rfl
    refine ⟨t, initRows.tail.map rowBytes, hrows ▸ ht, initRows_tail_perm.map rowBytes, ?_⟩
    rw [hfb, List.flatMap_append, hinit, flatMap_drawnIteration_rowBytes, List.append_assoc, List.append_assoc,
      List.append_assoc]

end Sys2Proof.Machine
end

section
/-! PROOF. Runs of words and resets: their observation, and what "no fault recorded" says of them
(spec/70_reset_and_hazards.md section 5, spec/60_exceptions.md section 1). -/

namespace Sys2Proof.Machine

/-! ## A run, step by step -/

/-- A step takes the oldest event, if there is one. -/
theorem step_cmd {s t : State} (ht : step s = .next t) : t.cmd = s.cmd.tail := by
  obtain ⟨hcmd, hn⟩ | ⟨rest, hcmd, hn⟩ | ⟨e, rest, i, hcmd, -, hn⟩ | ⟨w, rest, op, hcmd, -, hn⟩ |
    ⟨bytes, rest, -, -, hn⟩ := step_cases s
  · cases hn.symm.trans ht; rw [hcmd]; rfl
  · cases hn.symm.trans ht; rw [hcmd]; rfl
  · rw [hcmd]; exact exec_keeps_cmd (hn.symm.trans ht)
  · cases hn.symm.trans ht; rw [hcmd]; rfl
  · cases hn.symm.trans ht

theorem runSteps_succ_eq_next {n : Nat} {s t : State} :
    runSteps (n + 1) s = .next t ↔ ∃ u, step s = .next u ∧ runSteps n u = .next t := by
  rw [runSteps]
  cases step s <;> simp [andThen]

/-! ## The observation of a run (R238) -/

/-- An event that the block answers with a byte (R74, R202). -/
def isReadWord (e : HostEvent) : Bool :=
  match e with
  | .word w => isRead (opOf w)
  | .rst | .packet _ => false

theorem step_rsp_length {s t : State} {e : HostEvent} {rest : List HostEvent} (hcmd : s.cmd = e :: rest)
    (he : ∀ bytes, e ≠ .packet bytes) (ht : step s = .next t) :
    t.rsp.length = s.rsp.length + if isReadWord e then 1 else 0 := by
  cases e with
  | word w =>
    obtain ⟨bytes, hrsp, hlen⟩ := step_respondsByOpcode hcmd ht
    rw [hrsp, List.length_append, hlen]
    rfl
  | rst => rw [step_reset hcmd] at ht; cases ht; rfl
  | packet bytes => exact absurd rfl (he bytes)

/-- Words and resets all complete, and each read-type word adds one response. -/
theorem runSteps_responds {es : List HostEvent} {s : State} (h : Inv s) (hcmd : s.cmd = es)
    (hes : ∀ e ∈ es, ∀ bytes, e ≠ .packet bytes) :
    ∃ t, runSteps es.length s = .next t ∧ Inv t ∧ t.cmd = [] ∧
      t.rsp.length = s.rsp.length + es.countP isReadWord := by
  induction es generalizing s with
  | nil => exact ⟨s, rfl, h, hcmd, rfl⟩
  | cons e es ih =>
    obtain ⟨he, hes⟩ := List.forall_mem_cons.1 hes
    obtain ⟨u, hu⟩ := h.step_completes fun bytes rest hc => by
      rw [hcmd] at hc
      exact absurd (List.cons.inj hc).1 (he bytes)
    have hucmd : u.cmd = es := by rw [step_cmd hu, hcmd, List.tail_cons]
    obtain ⟨t, ht, hinv, htcmd, hrsp⟩ := ih (h.step hu) hucmd hes
    refine ⟨t, runSteps_succ_eq_next.2 ⟨u, hu, ht⟩, hinv, htcmd, ?_⟩
    rw [hrsp, step_rsp_length hcmd he hu, List.countP_cons]
    omega

/-- A run holds no packet (R238). -/
theorem ne_packet_of_isRun {es : List HostEvent} (h : isRun es = true) : ∀ e ∈ es, ∀ bytes, e ≠ .packet bytes := by
  rintro e he bytes rfl
  rw [isRun, Bool.and_eq_true, List.all_eq_true] at h
  exact absurd (h.1 _ he) (by simp)

/-- Settles O51: from the launch state the run completes, and its responses are counted word by word. -/
theorem runsHaveObservations : Obligations.RunsHaveObservations := by
  intro es hes
  have hinv : Inv (launch es) := (InvAt.resetWith block).congr rfl
  obtain ⟨t, ht, htinv, hcmd, hrsp⟩ := runSteps_responds hinv rfl (ne_packet_of_isRun hes)
  refine ⟨t, observation_eq_some.2 ⟨ht, rfl⟩, htinv, hcmd, hrsp.trans ((Nat.zero_add _).trans ?_)⟩
  exact List.countP_congr fun e _ => by cases e <;> rfl

/-! ## Which steps raise a fault (R200, R201) -/

theorem raisesFault_idle {s : State} (hcmd : s.cmd = []) : raisesFault s = false := by
  simp [raisesFault, fetch, hcmd]

theorem raisesFault_reset {s : State} {rest : List HostEvent} (hcmd : s.cmd = .rst :: rest) :
    raisesFault s = false := by
  simp [raisesFault, fetch, decode, hcmd]

theorem raisesFault_instr {s : State} {e : HostEvent} {rest : List HostEvent} {i : Instr} (hcmd : s.cmd = e :: rest)
    (he : decode e = .decoded (.instr i)) : raisesFault s = ((faultCause i s).isSome || !fits block i) := by
  simp [raisesFault, fetch, hcmd, he]

theorem raisesFault_illegal {s : State} {w : Word16} {rest : List HostEvent} {op : Byte}
    (hcmd : s.cmd = .word w :: rest) (hw : decodeWord w = .illegal op) : raisesFault s = true := by
  simp [raisesFault, fetch, decode, hcmd, hw]

/-- An instruction's `fault` afterwards: one recorded before, or one it raises. -/
theorem exec_fault {i : Instr} {s t : State} (ht : exec i s = .next t) :
    t.fault = (s.fault || ((faultCause i s).isSome || !fits block i)) := by
  cases hfits : fits block i with
  | false =>
    obtain ⟨u, hu, hfault, -⟩ := exec_of_not_fits (s := s) hfits
    cases hu.symm.trans ht
    simp [hfault]
  | true =>
    cases hcause : faultCause i s with
    | some code => rw [exec_of_faultCause hcause] at ht; cases ht; simp
    | none => simp [(exec_keeps_faultRecord_of_fits hcause hfits ht).1]

/-- A step's, if it is no reset. -/
theorem step_fault {s t : State} (ht : step s = .next t) (hreset : ∀ rest, s.cmd ≠ .rst :: rest) :
    t.fault = (s.fault || raisesFault s) := by
  obtain ⟨hcmd, hn⟩ | ⟨rest, hcmd, -⟩ | ⟨e, rest, i, hcmd, he, hn⟩ | ⟨w, rest, op, hcmd, hw, hn⟩ |
    ⟨bytes, rest, -, -, hn⟩ := step_cases s
  · cases hn.symm.trans ht
    rw [raisesFault_idle hcmd, Bool.or_false]
  · exact absurd hcmd (hreset rest)
  · rw [raisesFault_instr hcmd he]
    exact exec_fault (s := setEvents rest s) (hn.symm.trans ht)
  · cases hn.symm.trans ht
    rw [raisesFault_illegal hcmd hw, Bool.or_true]
    rfl
  · cases hn.symm.trans ht

/-- Whether a fault stands after a step, a reset or not. -/
theorem step_fault_cases {s t : State} (ht : step s = .next t) :
    (t.fault = false ∧ raisesFault s = false ∧ ∃ rest, s.cmd = .rst :: rest) ∨
    t.fault = (s.fault || raisesFault s) := by
  by_cases hreset : ∃ rest, s.cmd = .rst :: rest
  · obtain ⟨rest, hcmd⟩ := hreset
    cases (step_reset hcmd).symm.trans ht
    exact .inl ⟨rfl, raisesFault_reset hcmd, rest, hcmd⟩
  · exact .inr (step_fault ht (not_exists.1 hreset))

/-! ## Which runs raise a fault -/

theorem faultRaised_succ {n : Nat} {s t : State} (ht : step s = .next t) :
    faultRaised (n + 1) s = (raisesFault s || faultRaised n t) := by
  rw [faultRaised, ht]

theorem resetAfterLastFault_succ {n : Nat} {s t : State} (ht : step s = .next t) :
    resetAfterLastFault (n + 1) s =
      ((raisesFault s && !faultRaised n t && (t.cmd.take n).contains .rst) || resetAfterLastFault n t) := by
  rw [resetAfterLastFault, ht]

/-- Without a reset `fault` is set at the end exactly if it was set before or a step raised a fault. -/
theorem runSteps_fault {n : Nat} {s t : State} (hreset : .rst ∉ s.cmd.take n) (ht : runSteps n s = .next t) :
    t.fault = (s.fault || faultRaised n s) := by
  induction n generalizing s with
  | zero => cases ht; rw [faultRaised, Bool.or_false]
  | succ n ih =>
    obtain ⟨u, hu, ht⟩ := runSteps_succ_eq_next.1 ht
    have hhead : ∀ rest, s.cmd ≠ .rst :: rest := fun rest hcmd => hreset (by simp [hcmd])
    have htail : .rst ∉ u.cmd.take n := by
      rw [step_cmd hu]
      cases hcmd : s.cmd <;> simp_all
    rw [ih htail ht, step_fault hu hhead, faultRaised_succ hu, Bool.or_assoc]

/-- A run that raises no fault leaves a clear `fault` clear, resets or not. -/
theorem runSteps_fault_eq_false {n : Nat} {s t : State} (hf : s.fault = false) (hraised : faultRaised n s = false)
    (ht : runSteps n s = .next t) : t.fault = false := by
  induction n generalizing s with
  | zero => cases ht; exact hf
  | succ n ih =>
    obtain ⟨u, hu, ht⟩ := runSteps_succ_eq_next.1 ht
    rw [faultRaised_succ hu, Bool.or_eq_false_iff] at hraised
    obtain ⟨hs, hraised⟩ := hraised
    refine ih ?_ hraised ht
    obtain ⟨hclear, -⟩ | hfault := step_fault_cases hu
    · exact hclear
    · rw [hfault, hf, hs]; rfl

/-- A run that raises no fault has no last fault to reset. -/
theorem resetAfterLastFault_eq_false {n : Nat} {s t : State} (hraised : faultRaised n s = false)
    (ht : runSteps n s = .next t) : resetAfterLastFault n s = false := by
  induction n generalizing s with
  | zero => rfl
  | succ n ih =>
    obtain ⟨u, hu, ht⟩ := runSteps_succ_eq_next.1 ht
    rw [faultRaised_succ hu, Bool.or_eq_false_iff] at hraised
    obtain ⟨hs, hraised⟩ := hraised
    rw [resetAfterLastFault_succ hu, hs, ih hraised ht]
    rfl

/-- Where a fault was raised and `fault` is clear at the end, a reset came after the last one. -/
theorem resetAfterLastFault_of_faultRaised {n : Nat} {s t : State} (hraised : faultRaised n s = true)
    (ht : runSteps n s = .next t) (hf : t.fault = false) : resetAfterLastFault n s = true := by
  induction n generalizing s with
  | zero => cases hraised
  | succ n ih =>
    obtain ⟨u, hu, ht⟩ := runSteps_succ_eq_next.1 ht
    rw [resetAfterLastFault_succ hu]
    cases hlater : faultRaised n u with
    | true => rw [ih hlater ht, Bool.or_true]
    | false =>
      have hs : raisesFault s = true := by simpa [faultRaised_succ hu, hlater] using hraised
      have hreset : .rst ∈ u.cmd.take n := by
        by_contra hreset
        obtain ⟨-, hnot, -⟩ | hfault := step_fault_cases hu
        · rw [hs] at hnot; cases hnot
        · rw [runSteps_fault hreset ht, hfault, hs, Bool.or_true] at hf
          cases hf
      simp [hs, hreset]

/-- Without a reset none comes after the last fault. -/
theorem resetAfterLastFault_of_no_reset {n : Nat} {s t : State} (hreset : .rst ∉ s.cmd) (ht : runSteps n s = .next t) :
    resetAfterLastFault n s = false := by
  induction n generalizing s with
  | zero => rfl
  | succ n ih =>
    obtain ⟨u, hu, ht⟩ := runSteps_succ_eq_next.1 ht
    have hreset' : .rst ∉ u.cmd := fun hmem => hreset (List.mem_of_mem_tail (step_cmd hu ▸ hmem))
    have htake : .rst ∉ u.cmd.take n := fun hmem => hreset' (List.mem_of_mem_take hmem)
    rw [resetAfterLastFault_succ hu, ih hreset' ht]
    simp [htake]

/-! ## What was responded and sent before has no effect -/

/-- Other responses given and another frame buffer of the host. -/
def withOutputs (r fb : List Byte) (s : State) : State := withOutside s.g_acc r fb s

theorem exec_withOutputs {i : Instr} {s t : State} (ht : exec i s = .next t) (r fb : List Byte) :
    ∃ r' fb', exec i (withOutputs r fb s) = .next (withOutputs r' fb' t) := by
  cases hi : isGenerator i with
  | false =>
    obtain ⟨bytes, sent, h⟩ := exec_ignoresOutside hi ht
    refine ⟨r ++ bytes, fb ++ sent, (h s.g_acc r fb).trans ?_⟩
    rw [withOutputs, exec_keeps_g_acc hi ht]
  | true =>
    cases i with
    | ginit | gupd | gread => cases ht; exact ⟨_, _, rfl⟩
    | _ => cases hi

theorem step_withOutputs {s t : State} (ht : step s = .next t) (r fb : List Byte) :
    ∃ r' fb', step (withOutputs r fb s) = .next (withOutputs r' fb' t) := by
  obtain ⟨hcmd, hn⟩ | ⟨rest, hcmd, hn⟩ | ⟨e, rest, i, hcmd, he, hn⟩ | ⟨w, rest, op, hcmd, hw, hn⟩ |
    ⟨bytes, rest, -, -, hn⟩ := step_cases s
  · cases hn.symm.trans ht
    exact ⟨_, _, step_idle (s := withOutputs r fb s) hcmd⟩
  · cases hn.symm.trans ht
    exact ⟨_, _, step_reset (s := withOutputs r fb s) hcmd⟩
  · obtain ⟨r', fb', hexec⟩ := exec_withOutputs (s := setEvents rest s) (hn.symm.trans ht) r fb
    exact ⟨r', fb', (step_instr (s := withOutputs r fb s) hcmd he).trans hexec⟩
  · cases hn.symm.trans ht
    exact ⟨_, _, step_illegal (s := withOutputs r fb s) hcmd hw⟩
  · cases hn.symm.trans ht

theorem raisesFault_withOutputs (r fb : List Byte) {s t : State} (ht : step s = .next t) :
    raisesFault (withOutputs r fb s) = raisesFault s := by
  obtain ⟨hcmd, -⟩ | ⟨rest, hcmd, -⟩ | ⟨e, rest, i, hcmd, he, -⟩ | ⟨w, rest, op, hcmd, hw, -⟩ |
    ⟨bytes, rest, -, -, hn⟩ := step_cases s
  · rw [raisesFault_idle hcmd, raisesFault_idle (s := withOutputs r fb s) hcmd]
  · rw [raisesFault_reset hcmd, raisesFault_reset (s := withOutputs r fb s) hcmd]
  · rw [raisesFault_instr hcmd he, raisesFault_instr (s := withOutputs r fb s) hcmd he]
    rfl
  · rw [raisesFault_illegal hcmd hw, raisesFault_illegal (s := withOutputs r fb s) hcmd hw]
  · cases hn.symm.trans ht

theorem faultRaised_withOutputs {n : Nat} {s t : State} (ht : runSteps n s = .next t) (r fb : List Byte) :
    faultRaised n (withOutputs r fb s) = faultRaised n s := by
  induction n generalizing s r fb with
  | zero => rfl
  | succ n ih =>
    obtain ⟨u, hu, ht⟩ := runSteps_succ_eq_next.1 ht
    obtain ⟨r', fb', hstep⟩ := step_withOutputs hu r fb
    rw [faultRaised_succ hstep, faultRaised_succ hu, raisesFault_withOutputs r fb hu, ih ht]

/-! ## What follows the last reset (R238) -/

theorem rst_not_mem_afterLastReset (es : List HostEvent) : .rst ∉ afterLastReset es := by
  induction es with
  | nil => exact List.not_mem_nil
  | cons e es ih =>
    rw [afterLastReset]
    split
    · exact ih
    · split <;> simp_all [eq_comm]

theorem afterLastReset_of_not_mem {es : List HostEvent} (h : .rst ∉ es) : afterLastReset es = es := by
  cases es with
  | nil => rfl
  | cons e es =>
    obtain ⟨he, hes⟩ := not_or.1 (List.mem_cons.not.1 h)
    rw [afterLastReset, if_neg (by simpa using hes), if_neg (Ne.symm he)]

/-- A run with a reset goes on after the last one as a run from launch, but for what was responded and sent. -/
theorem runSteps_afterLastReset {es : List HostEvent} {s t : State} (hreset : .rst ∈ es) (hcmd : s.cmd = es)
    (ht : runSteps es.length s = .next t) :
    ∃ r fb, runSteps (afterLastReset es).length (withOutputs r fb (launch (afterLastReset es))) = .next t := by
  induction es generalizing s with
  | nil => cases hreset
  | cons e es ih =>
    obtain ⟨u, hu, ht⟩ := runSteps_succ_eq_next.1 ht
    rw [afterLastReset]
    by_cases hlater : .rst ∈ es
    · rw [if_pos (by simpa using hlater)]
      exact ih hlater (by rw [step_cmd hu, hcmd, List.tail_cons]) ht
    · obtain rfl : .rst = e := (List.mem_cons.1 hreset).resolve_right hlater
      rw [if_neg (by simpa using hlater), if_pos rfl]
      cases (step_reset hcmd).symm.trans hu
      exact ⟨s.rsp, s.fb, ht⟩

/-- At the end `fault` says whether a step after the last reset raised a fault. -/
theorem runFromReset_fault {es : List HostEvent} {t : State} (ht : runFromReset es = .next t) :
    t.fault = faultRaised (afterLastReset es).length (launch (afterLastReset es)) := by
  have hnone : .rst ∉ (afterLastReset es).take (afterLastReset es).length := by
    rw [List.take_length]
    exact rst_not_mem_afterLastReset es
  by_cases hreset : .rst ∈ es
  · obtain ⟨r, fb, hrun⟩ := runSteps_afterLastReset hreset rfl ht
    have hsame : faultRaised (afterLastReset es).length (launch (afterLastReset es)) = _ :=
      faultRaised_withOutputs hrun [] []
    rw [runSteps_fault hnone hrun, hsame]
    rfl
  · rw [afterLastReset_of_not_mem hreset] at hnone ⊢
    exact runSteps_fault (s := launch es) hnone ht

/-- A run has one final state. -/
theorem noFaultRecorded_iff {es : List HostEvent} {t : State} (ht : runFromReset es = .next t) :
    NoFaultRecorded es ↔ t.fault = false ∧ resetAfterLastFault es.length (launch es) = false := by
  simp [NoFaultRecorded, ht]

/-- Settles O52: a raised fault stands until a reset, and "no fault recorded" asks that none followed it. -/
theorem noFaultRecordedMeansNoFault : Obligations.NoFaultRecordedMeansNoFault := by
  refine fun es t ht => ⟨?_, fun hreset => ?_, by rw [runFromReset_fault ht]⟩
  · rw [noFaultRecorded_iff ht]
    refine ⟨fun ⟨hf, hlast⟩ => ?_, fun hraised =>
      ⟨runSteps_fault_eq_false (launch_fault es) hraised ht, resetAfterLastFault_eq_false hraised ht⟩⟩
    by_contra hraised
    rw [resetAfterLastFault_of_faultRaised (Bool.eq_true_of_not_eq_false hraised) ht hf] at hlast
    cases hlast
  · rw [noFaultRecorded_iff ht, and_iff_left (resetAfterLastFault_of_no_reset (s := launch es) hreset ht)]

end Sys2Proof.Machine
end

section
/-! PROOF. The assembler reads the lines of the commands (spec/30_encoding.md section 4). -/

namespace Sys2Proof.Machine

/-! ## Comments and blanks (R79) -/

/-- A character that stands inside a token, in no comment. -/
def isTokenChar (ch : Char) : Bool := ch ∉ [' ', '\t', ',', '@', ';']

theorem ne_semicolon_of_isTokenChar {ch : Char} (h : isTokenChar ch = true) : ch ≠ ';' := by
  rintro rfl
  cases h

theorem stripComment_append {line : List Char} (h : ∀ ch ∈ line, ch ≠ ';') (rest : List Char) :
    stripComment (line ++ rest) = line ++ stripComment rest := by
  induction line with
  | nil => rfl
  | cons ch line ih =>
    obtain ⟨hch, h⟩ := List.forall_mem_cons.1 h
    rw [List.cons_append, stripComment, if_neg hch, ih h, List.cons_append]

/-- A blank at the end of a line adds no token. -/
theorem tokenize_append_blank (cur line : List Char) : tokenize cur (line ++ [' ']) = tokenize cur line := by
  induction line generalizing cur with
  | nil => simp [tokenize, endToken]
  | cons ch line ih => simp only [List.cons_append, tokenize, ih]

/-- The characters of a token are collected one by one. -/
theorem tokenize_append_token {token : List Char} (h : ∀ ch ∈ token, isTokenChar ch = true) (cur rest : List Char) :
    tokenize cur (token ++ rest) = tokenize (token.reverse ++ cur) rest := by
  induction token generalizing cur with
  | nil => rfl
  | cons ch token ih =>
    obtain ⟨hch, h⟩ := List.forall_mem_cons.1 h
    simp only [isTokenChar, List.mem_cons, List.not_mem_nil, or_false, not_or, decide_eq_true_eq] at hch
    obtain ⟨hblank, htab, hcomma, hat, -⟩ := hch
    rw [List.cons_append, tokenize, if_neg (not_or.2 ⟨hblank, htab⟩), if_neg (not_or.2 ⟨hcomma, hat⟩), ih h,
      List.reverse_cons, List.append_assoc]
    rfl

/-- A line without a comment reads the same with one after it. -/
theorem assembleLine_append_comment {line : List Char} (h : ∀ ch ∈ line, ch ≠ ';') (comment : List Char) :
    assembleLine (line ++ ' ' :: ';' :: comment) = assembleLine line := by
  have hcomment : stripComment (' ' :: ';' :: comment) = [' '] := by simp [stripComment]
  have hline := stripComment_append h []
  rw [List.append_nil, stripComment, List.append_nil] at hline
  rw [assembleLine, assembleLine, stripComment_append h, hcomment, hline, tokenize_append_blank]

/-! ## A data byte as `0xHH` (R6, R79) -/

theorem digitValue_hexDigit : ∀ n < 16, digitValue 16 (hexDigit n) = some n := by decide

theorem isTokenChar_hexDigit : ∀ n < 16, isTokenChar (hexDigit n) = true := by decide

theorem readHex_hexByte (d : Byte) : readHex (hexByte d) = some d.toNat := by
  have hhigh := digitValue_hexDigit (d.toNat / 16) (by omega)
  have hlow := digitValue_hexDigit (d.toNat % 16) (by omega)
  simp only [hexByte, readHex, readDigits, hhigh, hlow, Option.some.injEq]
  omega

theorem readNumber_hexByte (d : Byte) : readNumber (hexByte d) = some d.toNat := by
  simp only [readNumber, readHex_hexByte]

theorem byteOperand_toNat (d : Byte) : byteOperand (some d.toNat) = .ok d := by
  have hrange : d.toNat ≤ 255 := Nat.le_of_lt_succ d.isLt
  rw [byteOperand, if_pos hrange, BitVec.ofNat_toNat, BitVec.setWidth_eq]

theorem isTokenChar_hexByte (d : Byte) : ∀ ch ∈ hexByte d, isTokenChar ch = true := by
  simp only [hexByte, List.forall_mem_cons]
  exact ⟨rfl, rfl, isTokenChar_hexDigit _ (by omega), isTokenChar_hexDigit _ (by omega), nofun⟩

/-! ## The lines of the commands (R74, R79) -/

/-- A line of a mnemonic and one data byte has them as its tokens. -/
theorem assembleLine_byte {mnemonic : List Char} (h : ∀ ch ∈ mnemonic, isTokenChar ch = true) (hne : mnemonic ≠ [])
    (d : Byte) : assembleLine (mnemonic ++ ' ' :: hexByte d) = assembleTokens mnemonic [hexByte d] := by
  have hmnemonic : tokenize [] (mnemonic ++ ' ' :: hexByte d) = mnemonic :: tokenize [] (hexByte d) := by
    rw [tokenize_append_token h, tokenize, if_pos (.inl rfl), List.append_nil, endToken,
      if_neg (List.reverse_ne_nil_iff.2 hne), List.reverse_reverse]
    rfl
  have hbyte : tokenize [] (hexByte d) = [hexByte d] := by
    have hcollect := tokenize_append_token (isTokenChar_hexByte d) [] []
    rw [List.append_nil, List.append_nil] at hcollect
    rw [hcollect]
    rfl
  have hstrip : stripComment (mnemonic ++ ' ' :: hexByte d) = mnemonic ++ ' ' :: hexByte d := by
    have hline := stripComment_append (line := mnemonic ++ ' ' :: hexByte d) (fun ch hmem => ?_) []
    · simpa [stripComment] using hline
    · obtain hmem | hmem | hmem := by simpa using hmem
      · exact ne_semicolon_of_isTokenChar (h ch hmem)
      · rw [hmem]; decide
      · exact ne_semicolon_of_isTokenChar (isTokenChar_hexByte d ch hmem)
  rw [assembleLine, hstrip, hmnemonic, hbyte]

/-- A command's line holds no comment and assembles to it. -/
theorem assembleLine_asmLine {i : Instr} {line : List Char} (h : asmLine i = some line) :
    (∀ ch ∈ line, ch ≠ ';') ∧ assembleLine line = .ok [i] := by
  have hhex (d : Byte) : ∀ ch ∈ hexByte d, ch ≠ ';' :=
    fun ch hch => ne_semicolon_of_isTokenChar (isTokenChar_hexByte d ch hch)
  cases i with
  | gupd d =>
    cases h
    refine ⟨List.forall_mem_append.2 ⟨by simp, hhex d⟩,
      (assembleLine_byte (mnemonic := ['G', 'U', 'P', 'D']) (by simp [isTokenChar]) (by simp) d).trans ?_⟩
    simp [assembleTokens, oneOperand, readHex_hexByte, byteOperand_toNat, Except.map]
  | fpush d =>
    cases h
    refine ⟨List.forall_mem_append.2 ⟨by simp, hhex d⟩,
      (assembleLine_byte (mnemonic := ['F', 'P', 'U', 'S', 'H']) (by simp [isTokenChar]) (by simp) d).trans ?_⟩
    simp [assembleTokens, oneOperand, readHex_hexByte, byteOperand_toNat, Except.map]
  | fframe d =>
    cases h
    refine ⟨List.forall_mem_append.2 ⟨by simp, hhex d⟩,
      (assembleLine_byte (mnemonic := ['F', 'F', 'R', 'A', 'M', 'E']) (by simp [isTokenChar]) (by simp) d).trans ?_⟩
    simp [assembleTokens, oneOperand, readNumber_hexByte, byteOperand_toNat, Except.map]
  | nop | ginit | gread | fclr | fframee | fread | flen | stat => cases h; exact ⟨by simp, rfl⟩
  | pktStatus | pktBrightness | pktMonitor | pktPid | sentinel => cases h

/-- Settles O9: the line assembles, and a comment after it is stripped. -/
theorem assemblerReadsItsLines : Obligations.AssemblerReadsItsLines := by
  intro i line comment h
  obtain ⟨hline, hasm⟩ := assembleLine_asmLine h
  exact ⟨hasm, (assembleLine_append_comment hline comment).trans hasm⟩

end Sys2Proof.Machine
end
